-- ==== Sys2Proof/Word.lean ====
section
/-!
DEFINITION. The value types of the block: bytes, words, 24-bit fields, pin levels.
Widths are those of spec/00_scope.md rule R10 and spec/10_state.md section 3.
-/

namespace Sys2Proof

/-- `UInt8` of rule R10: one byte of a frame or of a serialised command. -/
abbrev Byte := BitVec 8

/-- A 32-bit word: an `Int32` in two's complement (rule R10, `Int32`), or the bits of a binary32. -/
abbrev Word := BitVec 32

/-- A 24-bit field: the status word or the raw value of one channel code (rules R64 and R108). -/
abbrev Field24 := BitVec 24

/-- The level of a pin (rule R11, `LOW` and `HIGH`). -/
inductive Level where
  | low
  | high
  deriving DecidableEq, Repr, Inhabited

/-- A bit on a data line as a level: 1 is HIGH, 0 is LOW. -/
def Level.ofBit (b : Bool) : Level := if b then .high else .low

end Sys2Proof
end

