-- ==== Sys2Proof/Syntax.lean ====
section
/-!
DEFINITION. The commands and micro-operations as syntax: one constructor for each row of
spec/opcode_table.json (spec/30_encoding.md rules R59 and R60).
-/

namespace Sys2Proof

/-- The host commands of rule R59 with the operands rule R58 gives them, and the micro-operations of rule
R60, which have no operand. -/
inductive Instr where
  /-- INIT, rule R122 -/
  | init
  /-- READY, rule R123 -/
  | ready
  /-- READ, rule R124 -/
  | read
  /-- DECODE with its BUF operand, rule R113 -/
  | decode (buf : List Byte)
  /-- CVT_V with its CODE operand, rule R118 -/
  | cvtV (code : Word)
  /-- CVT_MV with its CODE operand, rule R119 -/
  | cvtMv (code : Word)
  /-- DESTROY, rule R125 -/
  | destroy
  /-- U_MCLK_START, rule R75 -/
  | uMclkStart
  /-- U_WAIT_STAB, rule R76 -/
  | uWaitStab
  /-- U_CS_INIT, rule R87 -/
  | uCsInit
  /-- U_DRDY_INIT, rule R88 -/
  | uDrdyInit
  /-- U_BUS_UP, rule R89 -/
  | uBusUp
  /-- U_SAMPLE_DRDY, rule R90 -/
  | uSampleDrdy
  /-- U_TXN_BEGIN, rule R93 -/
  | uTxnBegin
  /-- U_CS_ASSERT, rule R95 -/
  | uCsAssert
  /-- U_XFER, rule R96 -/
  | uXfer
  /-- U_CS_DEASSERT, rule R100 -/
  | uCsDeassert
  /-- U_TXN_END, rule R101 -/
  | uTxnEnd
  /-- U_DECODE, rule R112 -/
  | uDecode
  /-- U_BUS_RELEASE, rule R102 -/
  | uBusRelease
  deriving DecidableEq, Repr

end Sys2Proof
end

