-- ==== Sys2Proof/WellFormed.lean ====
section
/-!
DEFINITION. Which instructions the encoding admits (spec/30_encoding.md rule R58).
-/

namespace Sys2Proof

/-- The longest BUF operand: its length field has 16 bits (rule R58, "0 <= L <= 65535"). -/
def maxBufLen : Nat := 65535

/-- Rule R58: a BUF operand has at most 65535 bytes; every CODE operand is admitted (rule R68) and the
other rows have no operand. -/
def WellFormed (i : Instr) : Bool :=
  match i with
  | .decode buf => buf.length ≤ maxBufLen
  | .init => true
  | .ready => true
  | .read => true
  | .cvtV _ => true
  | .cvtMv _ => true
  | .destroy => true
  | .uMclkStart => true
  | .uWaitStab => true
  | .uCsInit => true
  | .uDrdyInit => true
  | .uBusUp => true
  | .uSampleDrdy => true
  | .uTxnBegin => true
  | .uCsAssert => true
  | .uXfer => true
  | .uCsDeassert => true
  | .uTxnEnd => true
  | .uDecode => true
  | .uBusRelease => true

end Sys2Proof
end

