-- ==== Sys2Proof/Decode.lean ====
section
/-!
DEFINITION. Decoding and encoding (spec/30_encoding.md sections 1 and 5, `opcode_table.json`): a total
decoder from bytes, and the encoder written from the same tables.
-/

namespace Sys2Proof

/-- What the decoder answers on a sequence of bytes. -/
inductive Decoded where
  /-- A whole serialised instruction and the bytes after it. -/
  | instr (i : Instr) (rest : List Byte)
  /-- The first byte is no opcode of either space (rule R69); it and the bytes after it. -/
  | illegal (opc : Byte) (rest : List Byte)
  /-- The bytes end before the instruction does (rule R70 gives its length). -/
  | incomplete
  deriving DecidableEq, Repr

/-- The CODE operand of rule R58: four bytes of an Int32, most significant byte first. -/
def decodeCodeOperand (mk : Word → Instr) (bytes : List Byte) : Decoded :=
  match bytes with
  | b0 :: b1 :: b2 :: b3 :: rest => .instr (mk (b0 ++ b1 ++ b2 ++ b3)) rest
  | _ => .incomplete

/-- The 16-bit length field of a BUF operand, most significant byte first (rule R58). -/
def bufLength (hi lo : Byte) : Nat := (hi ++ lo : BitVec 16).toNat

/-- The BUF operand of rule R58: the length L, then the L bytes in order. -/
def decodeBufOperand (bytes : List Byte) : Decoded :=
  match bytes with
  | hi :: lo :: rest =>
    if rest.length < bufLength hi lo then .incomplete
    else .instr (.decode (rest.take (bufLength hi lo))) (rest.drop (bufLength hi lo))
  | _ => .incomplete

/-- The opcode tables of rules R59 and R60, and rule R69 for every other value. -/
def decodeOpcode (opc : Byte) (rest : List Byte) : Decoded :=
  match opc.toNat with
  | 0x01 => .instr .init rest
  | 0x02 => .instr .ready rest
  | 0x03 => .instr .read rest
  | 0x04 => decodeBufOperand rest
  | 0x05 => decodeCodeOperand .cvtV rest
  | 0x06 => decodeCodeOperand .cvtMv rest
  | 0x07 => .instr .destroy rest
  | 0x80 => .instr .uMclkStart rest
  | 0x81 => .instr .uWaitStab rest
  | 0x82 => .instr .uCsInit rest
  | 0x83 => .instr .uDrdyInit rest
  | 0x84 => .instr .uBusUp rest
  | 0x85 => .instr .uSampleDrdy rest
  | 0x86 => .instr .uTxnBegin rest
  | 0x87 => .instr .uCsAssert rest
  | 0x88 => .instr .uXfer rest
  | 0x89 => .instr .uCsDeassert rest
  | 0x8A => .instr .uTxnEnd rest
  | 0x8B => .instr .uDecode rest
  | 0x8C => .instr .uBusRelease rest
  | _ => .illegal opc rest

/-- The decoder: total on any bytes, over both spaces of rules R59 and R60. Which of the two spaces may
be issued at the host interface is decided where a command is taken (rule R69), not here. -/
def decode (bytes : List Byte) : Decoded :=
  match bytes with
  | [] => .incomplete
  | opc :: rest => decodeOpcode opc rest

/-- The opcode of rules R59 and R60. -/
def opcode (i : Instr) : Byte :=
  match i with
  | .init => 0x01#8
  | .ready => 0x02#8
  | .read => 0x03#8
  | .decode _ => 0x04#8
  | .cvtV _ => 0x05#8
  | .cvtMv _ => 0x06#8
  | .destroy => 0x07#8
  | .uMclkStart => 0x80#8
  | .uWaitStab => 0x81#8
  | .uCsInit => 0x82#8
  | .uDrdyInit => 0x83#8
  | .uBusUp => 0x84#8
  | .uSampleDrdy => 0x85#8
  | .uTxnBegin => 0x86#8
  | .uCsAssert => 0x87#8
  | .uXfer => 0x88#8
  | .uCsDeassert => 0x89#8
  | .uTxnEnd => 0x8A#8
  | .uDecode => 0x8B#8
  | .uBusRelease => 0x8C#8

/-- CLASS of rule R58's opcode byte: bit 7, set for the internal micro-operation space. -/
def isMicroOpcode (opc : Byte) : Bool := opc.getLsbD 7

/-- The four bytes of a word, most significant first (rules R58 and R61). -/
def wordBytes (w : Word) : List Byte :=
  [w.extractLsb' 24 8, w.extractLsb' 16 8, w.extractLsb' 8 8, w.extractLsb' 0 8]

/-- The operand bytes of rule R58. -/
def operandBytes (i : Instr) : List Byte :=
  match i with
  | .decode buf =>
    let len := BitVec.ofNat 16 buf.length
    len.extractLsb' 8 8 :: len.extractLsb' 0 8 :: buf
  | .cvtV code => wordBytes code
  | .cvtMv code => wordBytes code
  | .init => []
  | .ready => []
  | .read => []
  | .destroy => []
  | .uMclkStart => []
  | .uWaitStab => []
  | .uCsInit => []
  | .uDrdyInit => []
  | .uBusUp => []
  | .uSampleDrdy => []
  | .uTxnBegin => []
  | .uCsAssert => []
  | .uXfer => []
  | .uCsDeassert => []
  | .uTxnEnd => []
  | .uDecode => []
  | .uBusRelease => []

/-- The serialised instruction of rule R58: the opcode, then the operand bytes. -/
def encode (i : Instr) : List Byte := opcode i :: operandBytes i

/-! ## Words of the opcode table -/

/-- The length in bytes that rules R58 and R70 give the serialised instruction these bytes begin (a byte
not there yet counts as 0). -/
def serialLength (bytes : List Byte) : Nat :=
  match (bytes.getD 0 0#8).toNat with
  | 0x04 => 3 + bufLength (bytes.getD 1 0#8) (bytes.getD 2 0#8)
  | 0x05 => 5
  | 0x06 => 5
  | _ => 1

/-- The first `n` bytes of a number whose bits are counted from the first byte's bit 0. -/
def bytesOfNat : Nat → Nat → List Byte
  | 0, _ => []
  | n + 1, w => BitVec.ofNat 8 w :: bytesOfNat n (w / 256)

/-- The serialised instruction whose first `nbits` bits are `w` and whose other bits are 0. -/
def tableBytes (nbits w : Nat) : List Byte :=
  let given := bytesOfNat (nbits / 8) (w % 2 ^ nbits)
  given ++ List.replicate (serialLength given - given.length) 0#8

/-- The instruction the decoder reads from a row of the opcode table. -/
def decodeTableWord (nbits w : Nat) : Option Instr :=
  match decode (tableBytes nbits w) with
  | .instr i _ => some i
  | .illegal _ _ => none
  | .incomplete => none

/-! ## Assembly syntax (rules R71 and R72), over lists of characters -/

/-- One line of a program in the syntax of rule R71. -/
inductive AsmLine where
  /-- nothing but blanks or a comment; environment actions are comments -/
  | blank
  /-- a command -/
  | command (i : Instr)
  /-- the pseudo-instruction of rule R72 -/
  | waitReady
  deriving DecidableEq, Repr

/-- The value of a hexadecimal digit. -/
def hexDigit (c : Char) : Option Nat :=
  let n := c.toNat
  if 48 ≤ n ∧ n ≤ 57 then some (n - 48)
  else if 65 ≤ n ∧ n ≤ 70 then some (n - 55)
  else if 97 ≤ n ∧ n ≤ 102 then some (n - 87)
  else none

/-- The number written by digits of a base, most significant first; none for no digit or a wrong one. -/
def digitsVal (base : Nat) (cs : List Char) : Option Nat :=
  match cs with
  | [] => none
  | _ => cs.foldl (fun acc c => acc.bind fun a => (hexDigit c).bind fun d =>
      if d < base then some (a * base + d) else none) (some 0)

/-- The blank-separated words of a line, up to a `;` (rule R71); a `|` separates words and is dropped. -/
def asmWords : List Char → List Char → List (List Char)
  | [], cur => if cur.isEmpty then [] else [cur.reverse]
  | c :: cs, cur =>
    if c.toNat = 59 then (if cur.isEmpty then [] else [cur.reverse])
    else if c.toNat = 32 ∨ c.toNat = 9 ∨ c.toNat = 124 then
      (if cur.isEmpty then asmWords cs [] else cur.reverse :: asmWords cs [])
    else asmWords cs (c :: cur)

/-- A CODE operand of rule R71: a signed decimal of the Int32 range, or `0x` and a 32-bit hex number. -/
def asmCode (w : List Char) : Option Word :=
  match w with
  | '0' :: 'x' :: ds =>
    (digitsVal 16 ds).bind fun n => if n < 2 ^ 32 then some (BitVec.ofNat 32 n) else none
  | '-' :: ds =>
    (digitsVal 10 ds).bind fun n => if n ≤ 2 ^ 31 then some (BitVec.ofInt 32 (-(n : Int))) else none
  | ds => (digitsVal 10 ds).bind fun n => if n < 2 ^ 31 then some (BitVec.ofNat 32 n) else none

/-- A BUF operand of rule R71: hex byte pairs. -/
def asmBytes (ws : List (List Char)) : Option (List Byte) :=
  ws.foldr (fun w acc => acc.bind fun bs =>
    if w.length = 2 then (digitsVal 16 w).map (fun n => BitVec.ofNat 8 n :: bs) else none) (some [])

/-- Rule R71: one command a line, mnemonics of rule R59 in upper case; none for any other line.
Micro-operations have no assembly form: the host cannot issue them (rule R60). -/
def assembleLine (line : List Char) : Option AsmLine :=
  match asmWords line [] with
  | [] => some .blank
  | [['I', 'N', 'I', 'T']] => some (.command .init)
  | [['R', 'E', 'A', 'D', 'Y']] => some (.command .ready)
  | [['R', 'E', 'A', 'D']] => some (.command .read)
  | [['D', 'E', 'S', 'T', 'R', 'O', 'Y']] => some (.command .destroy)
  | [['W', 'A', 'I', 'T', '_', 'R', 'E', 'A', 'D', 'Y']] => some .waitReady
  | [['C', 'V', 'T', '_', 'V'], w] => (asmCode w).map fun c => .command (.cvtV c)
  | [['C', 'V', 'T', '_', 'M', 'V'], w] => (asmCode w).map fun c => .command (.cvtMv c)
  | ['D', 'E', 'C', 'O', 'D', 'E'] :: ws => (asmBytes ws).map fun b => .command (.decode b)
  | _ => none

/-- Rule R72: WAIT_READY as the commands the host issues when its `polls`-th READY is the first to return
true; the number of polls is the environment's. -/
def expandWaitReady (polls : Nat) : List Instr := List.replicate polls .ready

end Sys2Proof
end

