-- ==== Sys2Proof/Config.lean ====
section
/-!
DEFINITION. What is fixed for one block: the compile-time constants (spec/00_scope.md rules R8 and R9,
spec/10_state.md rule R16), the parameters a model takes as arguments (rules R8 and R15), and the free
values the environment draws (rule R13).
-/

namespace Sys2Proof

/-! ## Fixed constants of rule R8 -/

/-- N_CH, the channel count. -/
def nCh : Nat := 8
/-- FRAME_LEN, the bytes of one frame: three status bytes and three bytes a channel. -/
def frameLen : Nat := 3 + 3 * nCh
/-- STATUS_LEN, the bytes of the status word. -/
def statusLen : Nat := 3
/-- CODE_BITS, the bits of a channel code. -/
def codeBits : Nat := 24
/-- SAMPLE_BITS, the bits of a decoded sample. -/
def sampleBits : Nat := 32
/-- F_MCLK in hertz. -/
def fMclk : BitVec 32 := 8000000#32
/-- PWM_RES_BITS, the duty resolution: 2^2 = 4 duty steps a period (rule R67). -/
def pwmResBits : BitVec 4 := 2#4
/-- PWM_DUTY: high for 2 of the 4 steps, 50 % (rule R67). -/
def pwmDuty : BitVec 4 := 2#4
/-- F_SCLK in hertz. -/
def fSclk : BitVec 32 := 4000000#32
/-- CPOL of SPI mode 1: the clock idles low (rule R66). -/
def spiCpol : Bool := false
/-- CPHA of SPI mode 1: sample on the trailing edge (rule R66). -/
def spiCpha : Bool := true
/-- BIT_ORDER: most significant bit first. -/
def spiMsbFirst : Bool := true
/-- TX_FILL: every transmitted byte (rule R65). -/
def txFill : Byte := 0x00#8
/-- FULL_SCALE = 2^23. -/
def fullScale : Nat := 8388608

/-! ## Derived constants of rule R9, in picoseconds; no rule of the untimed model reads them -/

/-- The bits of one frame. -/
def frameBits : Nat := frameLen * 8
/-- One MCLK period. -/
def mclkPeriodPs : Nat := 1000000000000 / 8000000
/-- The high time of one MCLK period: DUTY of the 2^RES_BITS steps. -/
def mclkHighPs : Nat := mclkPeriodPs * pwmDuty.toNat / 2 ^ pwmResBits.toNat
/-- One SCLK period. -/
def sclkPeriodPs : Nat := 1000000000000 / 4000000
/-- The clocking time of one frame. -/
def frameTimePs : Nat := frameBits * sclkPeriodPs
/-- The SPI mode number of rule R66: 2 * CPOL + CPHA. -/
def spiModeNumber : Nat := 2 * spiCpol.toNat + spiCpha.toNat

/-! ## Parameters -/

/-- CVT_ARITH, the arithmetic of the conversion helpers (spec/42_decoder.md rule R115). -/
inductive CvtArith where
  | binary32
  | binary32MvScale
  | double
  deriving DecidableEq, Repr, Inhabited

/-- PINS: six integer pin identifiers in the positional order of rule R15. -/
structure Pins where
  /-- clock-out -/
  mclk : Int
  /-- chip-select, active low -/
  cs : Int
  /-- data-ready, active low -/
  drdy : Int
  /-- data-out, to the ADC -/
  mosi : Int
  /-- data-in, from the ADC -/
  miso : Int
  /-- bus-clock -/
  sclk : Int
  deriving DecidableEq, Repr

/-- The pins in the positional order of rule R15. -/
def Pins.toList (p : Pins) : List Int := [p.mclk, p.cs, p.drdy, p.mosi, p.miso, p.sclk]

/-- The six pins are pairwise distinct (spec/43_facade.md rule R122). -/
def Pins.distinct (p : Pins) : Bool := decide p.toList.Nodup

/-- The parameters of rule R8 that a block is constructed with.
No step changes them (rule R15, "Fixed at construction; immutable"). -/
structure Config where
  /-- PINS -/
  pins : Pins
  /-- `pin_valid`, as the list of the valid identifiers (host-dependent, 92 D8) -/
  validPins : List Int
  /-- TIMER_ID -/
  timerId : Nat
  /-- PWM_CH_ID -/
  pwmChId : Nat
  /-- `timer_free(TIMER_ID, PWM_CH_ID)` -/
  timerFree : Bool
  /-- `clock_feasible(F_BASE, 8 000 000, 2)`, the only arguments a rule gives it (92 D25) -/
  clockFeasible : Bool
  /-- `bus_available` -/
  busAvailable : Bool
  /-- SHARED_BUS (92 D21) -/
  sharedBus : Bool
  /-- BUS_MAY_HANG (92 D20) -/
  busMayHang : Bool
  /-- CVT_ARITH (92 D18) -/
  cvtArith : CvtArith
  /-- F_BASE in hertz; clock_feasible and the base-clock constants of rule R9 are in terms of it -/
  fBase : Nat
  /-- MCLK_ACTUAL_HZ (rule R84); no rule reads it -/
  mclkActualHz : Nat
  /-- MCLK_JITTER (rule R78); no rule of the untimed model reads it -/
  mclkJitter : Bool
  /-- T_STAB in milliseconds (92 D9); no rule of the untimed model reads it -/
  tStabMs : Nat
  /-- t_cs_setup in picoseconds (92 D11); no rule reads it -/
  tCsSetupPs : Nat
  /-- t_cs_hold in picoseconds (92 D11); no rule reads it -/
  tCsHoldPs : Nat
  /-- t_byte_gap in picoseconds (92 D11); no rule reads it -/
  tByteGapPs : Nat
  deriving DecidableEq, Repr

/-- `pin_valid` of rule R8. -/
def Config.pinValid (c : Config) (p : Int) : Bool := c.validPins.contains p

/-- One MCLK period in base-clock periods, F_BASE / F_MCLK (rule R9: 10 with F_BASE = 80 MHz). -/
def Config.mclkBasePeriods (c : Config) : Rat := c.fBase / fMclk.toNat

/-- One PWM duty step in base-clock periods: a period is 2^RES_BITS steps (rules R9 and R67: 2.5 with F_BASE = 80 MHz).
-/
def Config.dutyStepBasePeriods (c : Config) : Rat := c.mclkBasePeriods / 2 ^ pwmResBits.toNat

/-- The default environment of spec/95_test_vectors.md: every pin valid and the six distinct, timer,
clock and bus available, bus not shared, no hang, F_BASE 80 MHz, CVT_ARITH = BINARY32.
DESIGN CHOICE (log 2) for the pin numbers, the identifiers, the jitter and the chip-select times, which
the spec leaves OPEN. Unsafe: only claims about the reset state see them. -/
def Config.default : Config where
  pins := { mclk := 0, cs := 1, drdy := 2, mosi := 3, miso := 4, sclk := 5 }
  validPins := [0, 1, 2, 3, 4, 5]
  timerId := 0
  pwmChId := 0
  timerFree := true
  clockFeasible := true
  busAvailable := true
  sharedBus := false
  busMayHang := false
  cvtArith := .binary32
  fBase := 80000000
  mclkActualHz := 8000000
  mclkJitter := false
  tStabMs := 100
  tCsSetupPs := 0
  tCsHoldPs := 0
  tByteGapPs := 0

/-! ## Free values (rule R13: "each value the block reads from them is a `Draw`")

Each is applied to the draw counter of the state; none has a body, so no proof can see a value of it
(log 3). -/

/-- The level of DRDY at a sample (spec/41_bus.md rules R90 and R91). -/
opaque Config.freeDrdy : Nat → Level
/-- The bit on MISO at an SCLK falling edge (rules R97 and R99). -/
opaque Config.freeMiso : Nat → Bool
/-- OTHER_CLAIM at an attempt to take the bus claim (rules R93 and R94). -/
opaque Config.freeClaim : Nat → Bool
/-- The draw of U_XFER that decides whether the transfer hangs (rules R96 and R104). -/
opaque Config.freeHang : Nat → Bool
/-- How far the frame number moves on between two successful READs (spec/20_memory.md rule R54). -/
opaque Config.freeFseqGap : Nat → Nat

end Sys2Proof
end

