-- ==== Sys2Proof/Machine/State.lean ====
section
/-!
DEFINITION. The state of the block as plain data (spec/10_state.md), the reasons a step can stop, and the
state after reset (spec/70_reset_and_hazards.md rule R144).

An item whose reset value the spec gives as "none" is an `Option`: the spec's own state, "the item holds
no value until written" (section 3 of 10_state.md; log 5). 1-bit items are `Bool`.
-/

namespace Sys2Proof.Machine

/-! ## Commands and the micro-pc -/

/-- The seven host commands as the micro-pc names them (rule R18). -/
inductive Command where
  | init
  | ready
  | read
  | decode
  | cvtV
  | cvtMv
  | destroy
  deriving DecidableEq, Repr

/-- UPC of rule R18: IDLE, or the executing command and the index 0..7 of its next micro-operation. -/
inductive Upc where
  | idle
  | running (c : Command) (k : Fin 8)
  deriving DecidableEq, Repr

/-! ## Control registers CR0 to CR4 -/

/-- CR0 LC, the lifecycle state (rule R20). -/
inductive Lc where
  | uninit
  | init
  | failed
  | destroyed
  deriving DecidableEq, Repr

/-- CR1 MCLK (rules R21 and R22). -/
structure Mclk where
  freqHz : Option (BitVec 32)
  resBits : Option (BitVec 4)
  duty : Option (BitVec 4)
  intrEn : Option Bool
  run : Bool
  settled : Bool
  deriving DecidableEq, Repr

/-- CR2 SPI (rule R23). -/
structure Spi where
  up : Bool
  bitrateHz : Option (BitVec 32)
  msbFirst : Option Bool
  cpol : Option Bool
  cpha : Option Bool
  txn : Bool
  claim : Bool
  deriving DecidableEq, Repr

/-- CS.DIR (rule R24). -/
inductive CsDir where
  | unconf
  | out
  deriving DecidableEq, Repr

/-- CR3 CS, the chip-select output (rule R24). -/
structure Cs where
  dir : CsDir
  lvl : Option Level
  deriving DecidableEq, Repr

/-- CR4 DRDY, the data-ready input (rule R25); its level is the environment's. -/
inductive DrdyDir where
  | unconf
  | input
  deriving DecidableEq, Repr

/-! ## Data registers -/

/-- The receive-buffer space RX (rules R26 and R39): the written cells, addresses rising; a cell that is
not listed holds no value. -/
abbrev Memory := List Host.Cell

/-- A decoded frame (rule R106): the raw status word and the eight sign-extended codes, channel 0 first. -/
structure Frame where
  status : Field24
  ch : Vector Word 8
  deriving DecidableEq, Repr

/-- FRAME_OUT (rule R27). -/
structure FrameOut where
  valid : Bool
  status : Option Field24
  ch : Option (Vector Word 8)
  deriving DecidableEq, Repr

/-! ## Results and faults -/

/-- The result codes of spec/60_exceptions.md rule R127. -/
inductive ResultCode where
  | ok
  | notReady
  | eInvalidPin
  | eClockCfg
  | eBusCfg
  deriving DecidableEq, Repr

/-- The payloads of rule R28; `f32` is the bit pattern of a binary32. -/
inductive Payload where
  | none
  | bool (b : Bool)
  | frame (f : Frame)
  | f32 (bits : Word)
  deriving DecidableEq, Repr

/-- RESULT (rule R28). -/
structure Response where
  code : ResultCode
  payload : Payload
  deriving DecidableEq, Repr

/-- The fault codes of rule R130. -/
inductive FaultCode where
  | illegalCmd
  | wrongState
  | shortBuffer
  | pinConflict
  deriving DecidableEq, Repr

/-- FAULT (rules R29 and R130): the code, the opcode of the command and the UPC recorded. -/
structure FaultRecord where
  code : FaultCode
  opc : Byte
  upc : Upc
  deriving DecidableEq, Repr

/-! ## The host and the environment (the model's own fields, logs 1, 3, 4, 10, 11, 12) -/

/-- What the host has presented: the bytes sent and not yet taken, and a pending system reset. -/
structure HostPort where
  cmdIn : List Byte
  resetReq : Bool
  deriving DecidableEq, Repr

/-- The environment of rule R13: the values it will present at the next draws, oldest first. A draw from
an empty list is a free value of Config at `drawn`. -/
structure Env where
  /-- the DRDY level at the next samples (rules R90 and R91) -/
  drdyIn : List Level
  /-- the MISO bit at the next SCLK falling edges (rule R97) -/
  misoIn : List Bool
  /-- OTHER_CLAIM at the next attempts to take the claim (rule R93) -/
  claimIn : List Bool
  /-- the hang draw of the next transfers (rule R96) -/
  hangIn : List Bool
  /-- how far the frame number moves on at the next transfers (rule R54) -/
  fseqIn : List Nat
  /-- how many draws have been made -/
  drawn : Nat
  /-- ghost FSEQ of the frame the last transfer presented (rule R54) -/
  fseqXfer : Nat
  /-- ghost FSEQ of the last successful READ (rule R54) -/
  fseqRead : Nat
  deriving DecidableEq, Repr

/-- What the block drives on the bus pins, in order (rules R53 and R97). -/
inductive WireEvent where
  /-- the chip-select pin is driven to a level -/
  | cs (lvl : Level)
  /-- SCLK rises; the master drives MOSI -/
  | sclkRise (mosi : Level)
  /-- SCLK falls; MOSI at the edge, and the bit sampled from MISO -/
  | sclkFall (mosi : Level) (miso : Bool)
  deriving DecidableEq, Repr

/-! ## The state -/

/-- The state of the block, its configuration, its host and its environment. -/
structure State where
  /-- the construction parameters; no step writes them -/
  cfg : Config
  /-- CR0 -/
  lc : Lc
  /-- CR1 -/
  mclk : Mclk
  /-- CR2 -/
  spi : Spi
  /-- CR3 -/
  cs : Cs
  /-- CR4 -/
  drdy : DrdyDir
  /-- RX[0..26] -/
  rx : Memory
  /-- FRAME_OUT -/
  frameOut : FrameOut
  /-- RESULT -/
  result : Option Response
  /-- FAULT -/
  fault : Option FaultRecord
  /-- UPC -/
  upc : Upc
  /-- TMP, the sequencer's internal result (rule R112) -/
  tmp : Option Frame
  /-- a U_XFER that holds forever (rule R96; the model's own field, log 7) -/
  hung : Bool
  /-- the host's side of the command interface -/
  host : HostPort
  /-- the environment -/
  env : Env
  /-- ghost: the events driven on the bus pins so far (log 12) -/
  wire : List WireEvent
  deriving DecidableEq, Repr

/-- Why the machine stops. -/
inductive Fault where
  /-- FAULT is set: no agent of the block has a further step (rules R29, R130 and R133 (1)). Raised by the
  step and by every meaning. Safe. -/
  | stopped (code : FaultCode)
  deriving DecidableEq, Repr

/-- Why an instruction has no meaning. -/
inductive Refusal where
  /-- An instruction of the opcode table that has no meaning yet; raised by exec's arms only. Safe. -/
  | notModelled (mnemonic : String)
  /-- A command or micro-operation issued while another command executes (rules R14, R141 and R152: "refused by
  the model"). Raised by a meaning whose instruction is not the sequencer's current one. Safe. -/
  | concurrentCommand
  /-- UPC names a step its command does not have; rule R121: no step index is ever out of range. Raised
  by the sequencer in states no run reaches. Safe. -/
  | noSuchStep
  deriving DecidableEq, Repr

/-! ## Reset -/

/-- CR1 after reset (rule R144). -/
def Mclk.reset : Mclk :=
  { freqHz := none, resBits := none, duty := none, intrEn := none, run := false, settled := false }

/-- CR2 after reset (rule R144). -/
def Spi.reset : Spi :=
  { up := false, bitrateHz := none, msbFirst := none, cpol := none, cpha := none,
    txn := false, claim := false }

/-- CR3 after reset (rule R144). -/
def Cs.reset : Cs := { dir := .unconf, lvl := none }

/-- FRAME_OUT after reset (rule R144). -/
def FrameOut.reset : FrameOut := { valid := false, status := none, ch := none }

/-- The host's side before anything is sent (DESIGN CHOICE, logs 1 and 10). -/
def HostPort.reset : HostPort := { cmdIn := [], resetReq := false }

/-- An environment that leaves every draw free (DESIGN CHOICE, logs 3, 4 and 11). -/
def Env.reset : Env :=
  { drdyIn := [], misoIn := [], claimIn := [], hangIn := [], fseqIn := [], drawn := 0,
    fseqXfer := 0, fseqRead := 0 }

/-- Construction of the block with given parameters: the table of rule R144. -/
def State.construct (cfg : Config) : State where
  cfg := cfg
  lc := .uninit
  mclk := Mclk.reset
  spi := Spi.reset
  cs := Cs.reset
  drdy := .unconf
  rx := []
  frameOut := FrameOut.reset
  result := none
  fault := none
  upc := .idle
  tmp := none
  hung := false
  host := HostPort.reset
  env := Env.reset
  wire := []

/-- The machine right after reset (rule R144) in the default environment of 95_test_vectors.md (log 2). -/
def State.reset : State := State.construct Config.default

end Sys2Proof.Machine
end

