-- ==== Sys2Proof/Machine/Ops.lean ====
section
/-!
DEFINITION. The named operations every meaning is written with: the receive-buffer space, the draws, the
sequencer's moves (accepting a command, moving on, ending it with a result, raising a fault) and reset.
-/

namespace Sys2Proof.Machine

/-- The outcome of a step of this machine. -/
abbrev Out := Host.Outcome State Fault Refusal

/-! ## One write to each state item -/

def State.setLc (s : State) (v : Lc) : State := { s with lc := v }
def State.setMclk (s : State) (v : Mclk) : State := { s with mclk := v }
def State.setSpi (s : State) (v : Spi) : State := { s with spi := v }
def State.setCs (s : State) (v : Cs) : State := { s with cs := v }
def State.setDrdy (s : State) (v : DrdyDir) : State := { s with drdy := v }
def State.setRx (s : State) (v : Memory) : State := { s with rx := v }
def State.setFrameOut (s : State) (v : FrameOut) : State := { s with frameOut := v }
def State.setResult (s : State) (v : Option Response) : State := { s with result := v }
def State.setFault (s : State) (v : Option FaultRecord) : State := { s with fault := v }
def State.setUpc (s : State) (v : Upc) : State := { s with upc := v }
def State.setTmp (s : State) (v : Option Frame) : State := { s with tmp := v }
def State.setHung (s : State) (v : Bool) : State := { s with hung := v }
def State.setHost (s : State) (v : HostPort) : State := { s with host := v }
def State.setEnv (s : State) (v : Env) : State := { s with env := v }
def State.setWire (s : State) (v : List WireEvent) : State := { s with wire := v }

/-! ## The receive-buffer space (spec/20_memory.md) -/

/-- Addresses strictly rising from `lo` on, and each below FRAME_LEN. -/
def Memory.wfFrom : Nat → Memory → Bool
  | _, [] => true
  | lo, (a, _) :: m => decide (lo ≤ a) && decide (a < frameLen) && Memory.wfFrom (a + 1) m

/-- The canonical form: addresses strictly rising, every address one of the 27 cells (rules R37 and R39).
An unlisted cell holds no value, so no entry can equal what an unlisted cell reads as. -/
def Memory.wf (m : Memory) : Bool := Memory.wfFrom 0 m

/-- The value a cell holds, if it holds one (rule R26). -/
def Memory.read : Memory → Nat → Option Byte
  | [], _ => none
  | (b, v) :: m, a => if a = b then some v else Memory.read m a

/-- Insertion of a cell in address order, in place of a cell of the same address. -/
def Memory.insert : Memory → Nat → Byte → Memory
  | [], a, v => [(a, v)]
  | (b, w) :: m, a, v =>
    if a < b then (a, v) :: (b, w) :: m
    else if a = b then (a, v) :: m
    else (b, w) :: Memory.insert m a v

/-- `MemWrite(RX, i, 1, b)` of rule R39; none for an index outside 0..26. -/
def memWrite (m : Memory) (i : Nat) (v : Byte) : Option Memory :=
  if i < frameLen then some (Memory.insert m i v) else none

/-- `MemRead(RX, i, n)` of rule R39: the unsigned value {RX[i], ..., RX[i+n-1]}, first byte most
significant; none where a cell holds no value or the read is not one the rule admits. -/
def memRead (m : Memory) (i n : Nat) : Option Nat :=
  if 1 ≤ n ∧ n ≤ 3 ∧ i + n ≤ frameLen then
    (List.range n).foldl
      (fun acc j => acc.bind fun v => (Memory.read m (i + j)).map fun b => v * 256 + b.toNat) (some 0)
  else none

/-- `MemWrite(RX, i, 1, b)` for successive indices from `i` on, in order (the loop of rule R96). -/
def memWriteAll : Memory → Nat → List Byte → Option Memory
  | m, _, [] => some m
  | m, i, b :: bs => (memWrite m i b).bind fun m' => memWriteAll m' (i + 1) bs

/-- The bytes `MemRead(RX, i, 1)` for successive indices from `i` on (the loop of rule R112); none as
soon as one of them holds no value. -/
def memReadAll (m : Memory) : Nat → Nat → Option (List Byte)
  | _, 0 => some []
  | i, n + 1 =>
    (memRead m i 1).bind fun v => (memReadAll m (i + 1) n).map fun bs => BitVec.ofNat 8 v :: bs

/-! ## Draws from the environment (rule R13) -/

/-- The next value of a stimulus, or the free value where the environment has fixed none. -/
def drawFrom {α : Type} (script : List α) (free : α) : α := script.headD free

/-- Rule R90: the level of DRDY at a sample. -/
def Env.drawDrdy (e : Env) : Level × Env :=
  (drawFrom e.drdyIn (Config.freeDrdy e.drawn), { e with drdyIn := e.drdyIn.tail, drawn := e.drawn + 1 })

/-- Rule R97: the bit on MISO at one SCLK falling edge. -/
def Env.drawMiso (e : Env) : Bool × Env :=
  (drawFrom e.misoIn (Config.freeMiso e.drawn), { e with misoIn := e.misoIn.tail, drawn := e.drawn + 1 })

/-- Rule R93: OTHER_CLAIM when the block tries to take the claim. -/
def Env.drawClaim (e : Env) : Bool × Env :=
  (drawFrom e.claimIn (Config.freeClaim e.drawn), { e with claimIn := e.claimIn.tail, drawn := e.drawn + 1 })

/-- Rule R96: whether this transfer holds forever. -/
def Env.drawHang (e : Env) : Bool × Env :=
  (drawFrom e.hangIn (Config.freeHang e.drawn), { e with hangIn := e.hangIn.tail, drawn := e.drawn + 1 })

/-- Rule R54: the ghost frame number of the frame a transfer presents, at or after the frame of the last
successful READ (log 11). -/
def Env.drawFseq (e : Env) : Env :=
  { e with
    fseqIn := e.fseqIn.tail, drawn := e.drawn + 1,
    fseqXfer := e.fseqRead + drawFrom e.fseqIn (Config.freeFseqGap e.drawn) }

/-! ## Commands and sequences -/

/-- The opcode of a command (rule R59). -/
def Command.opcode (c : Command) : Byte :=
  match c with
  | .init => 0x01#8
  | .ready => 0x02#8
  | .read => 0x03#8
  | .decode => 0x04#8
  | .cvtV => 0x05#8
  | .cvtMv => 0x06#8
  | .destroy => 0x07#8

/-- The micro-operation sequence of each command (spec/43_facade.md rule R120). -/
def Command.sequence (c : Command) : List Instr :=
  match c with
  | .init => [.uMclkStart, .uWaitStab, .uCsInit, .uDrdyInit, .uBusUp, .uWaitStab]
  | .ready => [.uSampleDrdy]
  | .read => [.uSampleDrdy, .uTxnBegin, .uCsAssert, .uXfer, .uCsDeassert, .uTxnEnd, .uDecode]
  | .decode => []
  | .cvtV => []
  | .cvtMv => []
  | .destroy => [.uBusRelease]

/-- The micro-operation at an index of a command's sequence, if there is one. -/
def stepAt (c : Command) (k : Fin 8) : Option Instr := c.sequence[k.val]?

/-- The lifecycle admission table of spec/60_exceptions.md rule R131. -/
def admitted (c : Command) (lc : Lc) : Bool :=
  match c, lc with
  | .init, .uninit => true
  | .ready, .init => true
  | .read, .init => true
  | .decode, .uninit => true
  | .decode, .init => true
  | .cvtV, .uninit => true
  | .cvtV, .init => true
  | .cvtMv, .uninit => true
  | .cvtMv, .init => true
  | .destroy, .uninit => true
  | .destroy, .init => true
  | .destroy, .failed => true
  | _, _ => false

/-! ## Taking a fault, ending a command, moving on -/

/-- `raise Fault(code)` (rule R130): FAULT takes the code, the opcode of the command and UPC; nothing
else changes, and UPC stays where it is (rule R18). -/
def raiseFault (code : FaultCode) (opc : Byte) (s : State) : Out :=
  .next (s.setFault (some { code := code, opc := opc, upc := s.upc }))

/-- `return Result(code, payload)` (rules R11 and R18): RESULT is written and UPC returns to IDLE. -/
def State.endWith (s : State) (r : Response) : State := (s.setResult (some r)).setUpc .idle

/-- A command that ends with OK. -/
def returnOk (p : Payload) (s : State) : Out := .next (s.endWith { code := .ok, payload := p })

/-- An error result ends the command at once; effects of earlier steps stay, and an INIT leaves the
lifecycle at FAILED (rules R122 and R135). -/
def returnError (c : Command) (code : ResultCode) (s : State) : Out :=
  let s' := s.endWith { code := code, payload := .none }
  .next (if c = .init then s'.setLc .failed else s')

/-- The end of a command whose last micro-operation has completed: INIT (rule R122), READ (rule R124)
and DESTROY (rule R125). READ delivers TMP; a TMP that holds no value faults (rule R30; no run reaches
that, log 15). The other commands end inside a step of their own and never here. -/
def complete (c : Command) (s : State) : Out :=
  match c with
  | .init => returnOk .none (s.setLc .init)
  | .read =>
    match s.tmp with
    | some f =>
      returnOk (.frame f)
        ((s.setFrameOut { valid := true, status := some f.status, ch := some f.ch }).setEnv
          { s.env with fseqRead := s.env.fseqXfer })
    | none => raiseFault .wrongState c.opcode s
  | .destroy => returnOk .none (s.setLc .destroyed)
  | .ready => raiseFault .wrongState c.opcode s
  | .decode => raiseFault .wrongState c.opcode s
  | .cvtV => raiseFault .wrongState c.opcode s
  | .cvtMv => raiseFault .wrongState c.opcode s

/-- `upc <- next` (rule R18): on to the next micro-operation, or to the end of the command after the
last one. -/
def moveOn (c : Command) (k : Fin 8) (s : State) : Out :=
  if k.val + 1 < c.sequence.length then .next (s.setUpc (.running c (k + 1))) else complete c s

/-- `require p` at the head of a micro-operation: F_WRONG_STATE where it fails (rule R130). -/
def require (p : Bool) (c : Command) (s : State) (body : Out) : Out :=
  if p then body else raiseFault .wrongState c.opcode s

/-- The frame of every host command, in the order of rule R133: no step once FAULT is set; refused while
another command executes (rules R141 and R152); F_WRONG_STATE, with UPC still IDLE, where rule R131 does
not admit it; else it is accepted, UPC <- (c, 0) (rule R18). -/
def hostCommand (c : Command) (s : State) (body : State → Out) : Out :=
  match s.fault with
  | some f => .fault (.stopped f.code)
  | none =>
    match s.upc with
    | .running _ _ => .refused .concurrentCommand
    | .idle =>
      if admitted c s.lc then body (s.setUpc (.running c 0)) else raiseFault .wrongState c.opcode s

/-- The frame of every micro-operation: no step once FAULT is set; at the host interface (UPC IDLE) its
code is illegal (rule R69); elsewhere than at its own step of a sequence it is a second command and
refused (rule R141); at its step it runs with the command and index of UPC. -/
def microOp (i : Instr) (s : State) (body : Command → Fin 8 → Out) : Out :=
  match s.fault with
  | some f => .fault (.stopped f.code)
  | none =>
    match s.upc with
    | .idle => raiseFault .illegalCmd (opcode i) s
    | .running c k => if stepAt c k = some i then body c k else .refused .concurrentCommand

/-! ## Reset (spec/70_reset_and_hazards.md rule R145) -/

/-- A system reset: every agent stops and the block is constructed anew with the same parameters. The
host's stream and the environment are outside the block and stay; the request is served (log 10). -/
def State.systemReset (s : State) : State :=
  ((State.construct s.cfg).setHost { s.host with resetReq := false }).setEnv s.env

/-! ## Pins (rule R32 and spec/60_exceptions.md rule R140) -/

/-- The six pin roles of rule R140. -/
inductive PinRole where
  | mclk
  | cs
  | drdy
  | mosi
  | miso
  | sclk
  deriving DecidableEq, Repr

/-- What is on a pin between steps. -/
inductive PinView where
  /-- any value: no rule fixes the level (rule R32; log 13) -/
  | anyValue
  /-- the block drives this level -/
  | driven (lvl : Level)
  /-- the block drives the master clock of rule R77 -/
  | masterClock
  /-- an input: the ADC drives it -/
  | external
  deriving DecidableEq, Repr

/-- The identifier of a role's pin (rule R15). -/
def PinRole.id (r : PinRole) (p : Pins) : Int :=
  match r with
  | .mclk => p.mclk
  | .cs => p.cs
  | .drdy => p.drdy
  | .mosi => p.mosi
  | .miso => p.miso
  | .sclk => p.sclk

/-- The direction a pin has once configured (rule R140): true for an output. -/
def PinRole.isOutput (r : PinRole) : Bool :=
  match r with
  | .mclk => true
  | .cs => true
  | .drdy => false
  | .mosi => true
  | .miso => false
  | .sclk => true

/-- Whether a pin has been configured by its micro-operation (rule R140, last column). -/
def pinConfigured (r : PinRole) (s : State) : Bool :=
  match r with
  | .mclk => s.mclk.run
  | .cs => decide (s.cs.dir = .out)
  | .drdy => decide (s.drdy = .input)
  | .mosi => s.spi.up
  | .miso => s.spi.up
  | .sclk => s.spi.up

/-- Rule R32. A transfer clocks only inside the step of a U_XFER that completes, so between steps SCLK is idle; a
U_XFER that hangs holds before its first bit (rule R96), where none is clocking either (log 13). -/
def pinView (r : PinRole) (s : State) : PinView :=
  match r with
  | .mclk => if s.mclk.run then .masterClock else .anyValue
  | .cs =>
    match s.cs.dir, s.cs.lvl with
    | .out, some l => .driven l
    | _, _ => .anyValue
  | .drdy => .external
  | .miso => .external
  | .mosi => .anyValue
  | .sclk => if s.spi.up && decide (s.spi.cpol = some false) then .driven .low else .anyValue

end Sys2Proof.Machine
end

