-- ==== Sys2Proof/Machine/Operands.lean ====
section
/-!
DEFINITION. Operand and field assembly: the frame decoder's bytes, bits and sign extension
(spec/30_encoding.md rules R62 to R64, spec/42_decoder.md rules R105 to R111).
-/

namespace Sys2Proof.Machine

/-- Byte `i` of a buffer; DecodeFn is applied to buffers of at least 27 bytes only. -/
def byteAt (b : List Byte) (i : Nat) : Byte := b.getD i 0#8

/-- A 24-bit field of three bytes, the first most significant (rules R40 and R64):
`(b0 << 16) | (b1 << 8) | b2`. -/
def assemble24 (b0 b1 b2 : Byte) : Field24 :=
  (b0.zeroExtend 24 <<< 16) ||| (b1.zeroExtend 24 <<< 8) ||| b2.zeroExtend 24

/-- Sign extension of a channel code (rule R107): the upper 8 bits all equal bit 23. -/
def signExtend24 (c : Field24) : Word := (if c.getLsbD 23 then 0xFF#8 else 0x00#8) ++ c

/-- The offset of channel `k`'s field (rule R62). -/
def channelOffset (k : Nat) : Nat := 3 + 3 * k

/-- The 24-bit field at an offset of a buffer. -/
def fieldAt (b : List Byte) (off : Nat) : Field24 :=
  assemble24 (byteAt b off) (byteAt b (off + 1)) (byteAt b (off + 2))

/-- CH[k] of rule R106. -/
def channel (b : List Byte) (k : Nat) : Word := signExtend24 (fieldAt b (channelOffset k))

/-- DecodeFn of rule R106. -/
def decodeFn (b : List Byte) : Frame where
  status := fieldAt b 0
  ch := #v[channel b 0, channel b 1, channel b 2, channel b 3,
           channel b 4, channel b 5, channel b 6, channel b 7]

/-- `Enc(v)` of rule R111: the three bytes of a 24-bit field, most significant first. -/
def encodeField (c : Field24) : List Byte :=
  [c.extractLsb' 16 8, c.extractLsb' 8 8, c.extractLsb' 0 8]

/-- The bits of a byte as a transfer carries them: first the most significant (rule R41). -/
def bitsOfByte (b : Byte) : List Bool :=
  [b.getLsbD 7, b.getLsbD 6, b.getLsbD 5, b.getLsbD 4, b.getLsbD 3, b.getLsbD 2, b.getLsbD 1, b.getLsbD 0]

/-- The byte whose bits arrived in this order, first bit 7 (rule R63). -/
def byteOfBits (bits : List Bool) : Byte :=
  bits.foldl (fun acc b => (acc <<< 1) ||| (if b then 1#8 else 0#8)) 0#8

/-- Stream bit `s` of a received buffer (rule R63): bit 7 - (s mod 8) of byte s div 8. -/
def streamBit (b : List Byte) (s : Nat) : Bool := (byteAt b (s / 8)).getLsbD (7 - s % 8)

end Sys2Proof.Machine
end

