-- ==== Sys2Proof/Machine/Flags.lean ====
section
/-!
DEFINITION. Status outputs. The block has no condition codes (spec/10_state.md rule R19); its status is
the readiness predicate, the result code, FRAME_OUT.VALID and FAULT. Here: the readiness predicate, the
numeric codes and the serialised response.
-/

namespace Sys2Proof.Machine

/-- The readiness predicate (spec/41_bus.md rules R90 and R91): true exactly when DRDY reads LOW. -/
def readyOf (lvl : Level) : Bool := decide (lvl = .low)

/-- The numeric result codes of spec/60_exceptions.md rule R127. -/
def ResultCode.toByte (c : ResultCode) : Byte :=
  match c with
  | .ok => 0x00#8
  | .notReady => 0x01#8
  | .eInvalidPin => 0x10#8
  | .eClockCfg => 0x11#8
  | .eBusCfg => 0x12#8

/-- The numeric fault codes of rule R130. -/
def FaultCode.toByte (c : FaultCode) : Byte :=
  match c with
  | .illegalCmd => 0xE0#8
  | .wrongState => 0xE1#8
  | .shortBuffer => 0xE2#8
  | .pinConflict => 0xE3#8

/-- A payload serialised by spec/30_encoding.md rule R61, most significant byte first. -/
def Payload.bytes (p : Payload) : List Byte :=
  match p with
  | .none => []
  | .bool b => [if b then 0x01#8 else 0x00#8]
  | .frame f => encodeField f.status ++ f.ch.toList.flatMap wordBytes
  | .f32 bits => wordBytes bits

/-- A response serialised by rule R61: the result code, then the payload. -/
def Response.bytes (r : Response) : List Byte := r.code.toByte :: r.payload.bytes

/-- The status outputs of rule R19 that the host can read between commands: the code of the last
result, FRAME_OUT.VALID and whether FAULT is set. -/
def statusOutputs (s : State) : Option Byte × Bool × Bool :=
  (s.result.map fun r => r.code.toByte, s.frameOut.valid, s.fault.isSome)

end Sys2Proof.Machine
end

