-- ==== Sys2Proof/Machine/Bus.lean ====
section
/-!
DEFINITION. The SPI master (spec/41_bus.md): pin and bus bring-up, the readiness sample, and the
micro-operations of one transaction, with the byte exchange of rule R97.
-/

namespace Sys2Proof.Machine

/-- `PinWrite(pin_cs, l)` with CS.LVL <- l (rules R24 and R32). -/
def State.driveCs (s : State) (l : Level) : State :=
  (s.setCs { s.cs with lvl := some l }).setWire (s.wire ++ [.cs l])

/-- U_CS_INIT (rule R87): output and HIGH in the same step. -/
def execUCsInit (s : State) : Out :=
  microOp .uCsInit s fun c k =>
    if !s.cfg.pinValid s.cfg.pins.cs then returnError c .eInvalidPin s
    else moveOn c k ((s.setCs { s.cs with dir := .out }).driveCs .high)

/-- U_DRDY_INIT (rule R88). -/
def execUDrdyInit (s : State) : Out :=
  microOp .uDrdyInit s fun c k =>
    if !s.cfg.pinValid s.cfg.pins.drdy then returnError c .eInvalidPin s
    else moveOn c k (s.setDrdy .input)

/-- The three bus pins of rule R89 are valid. -/
def busPinsValid (cfg : Config) : Bool :=
  cfg.pinValid cfg.pins.sclk && cfg.pinValid cfg.pins.mosi && cfg.pinValid cfg.pins.miso

/-- U_BUS_UP (rule R89). -/
def execUBusUp (s : State) : Out :=
  microOp .uBusUp s fun c k =>
    if !busPinsValid s.cfg then returnError c .eInvalidPin s
    else if !s.cfg.busAvailable then returnError c .eBusCfg s
    else moveOn c k (s.setSpi { s.spi with up := true })

/-- What the sample means to the command it belongs to (rules R123 and R124): READY returns it; READ goes on
when ready and else ends with NOT_READY. No other sequence samples (rule R120). -/
def afterSample (c : Command) (k : Fin 8) (ready : Bool) (s : State) : Out :=
  match c with
  | .ready => returnOk (.bool ready) s
  | .read =>
    if ready then moveOn c k s else .next (s.endWith { code := .notReady, payload := .none })
  | .init => moveOn c k s
  | .decode => moveOn c k s
  | .cvtV => moveOn c k s
  | .cvtMv => moveOn c k s
  | .destroy => moveOn c k s

/-- U_SAMPLE_DRDY (rule R90). -/
def execUSampleDrdy (s : State) : Out :=
  microOp .uSampleDrdy s fun c k =>
    require (decide (s.drdy = .input)) c s
      (afterSample c k (readyOf s.env.drawDrdy.1) (s.setEnv s.env.drawDrdy.2))

/-- CR2 inside a transaction bracket: mode 1 at 4 MHz, most significant bit first, claim held (rules R86
and R93). -/
def Spi.begun (p : Spi) : Spi :=
  { up := p.up, bitrateHz := some fSclk, msbFirst := some spiMsbFirst, cpol := some spiCpol,
    cpha := some spiCpha, txn := true, claim := true }

/-- U_TXN_BEGIN (rule R93). On a shared bus it holds while another user has the claim: UPC does not move
and the next step tries again (rules R94 and R132; log 7). -/
def execUTxnBegin (s : State) : Out :=
  microOp .uTxnBegin s fun c k =>
    require (s.spi.up && s.mclk.settled && !s.spi.txn) c s
      (if s.cfg.sharedBus then
        if s.env.drawClaim.1 then .next (s.setEnv s.env.drawClaim.2)
        else moveOn c k ((s.setEnv s.env.drawClaim.2).setSpi s.spi.begun)
      else moveOn c k (s.setSpi s.spi.begun))

/-- U_CS_ASSERT (rule R95). -/
def execUCsAssert (s : State) : Out :=
  microOp .uCsAssert s fun c k =>
    require (s.spi.txn && decide (s.cs.dir = .out) && decide (s.cs.lvl = some .high)) c s
      (moveOn c k (s.driveCs .low))

/-! ## The exchange of bytes -/

/-- Bit positions `n - 1` down to 0 of the exchange of one byte (rule R97): SCLK rises with MOSI = t[p],
then SCLK falls and MISO is sampled. The edges, and the environment after the draws. -/
def exchangeBits (t : Byte) : Nat → Env → List WireEvent × Env
  | 0, e => ([], e)
  | p + 1, e =>
    let mosi := Level.ofBit (t.getLsbD p)
    let rest := exchangeBits t p e.drawMiso.2
    (.sclkRise mosi :: .sclkFall mosi e.drawMiso.1 :: rest.1, rest.2)

/-- The bit an event samples, if it is a falling edge. -/
def WireEvent.sampled (w : WireEvent) : Option Bool :=
  match w with
  | .sclkFall _ miso => some miso
  | .sclkRise _ => none
  | .cs _ => none

/-- XBYTE(t) of rule R97: the byte received, the edges, and the environment after it. -/
def xbyte (t : Byte) (e : Env) : Byte × List WireEvent × Env :=
  let x := exchangeBits t 8 e
  (byteOfBits (x.1.filterMap WireEvent.sampled), x.1, x.2)

/-- The exchange of `n` bytes, TX_FILL each (rules R65 and R96): the bytes in order of arrival, the edges
in order, and the environment after it. Between two bytes SCLK stays LOW (rule R98). -/
def xbytes : Nat → Env → List Byte × List WireEvent × Env
  | 0, e => ([], [], e)
  | n + 1, e =>
    let x := xbyte txFill e
    let rest := xbytes n x.2.2
    (x.1 :: rest.1, x.2.1 ++ rest.2.1, rest.2.2)

/-- The 27-byte transfer into RX (rule R96), with the ghost frame number of rule R54; none if a write
fails, which an index below 27 never does. -/
def State.transfer (s : State) : Option State :=
  let x := xbytes frameLen s.env.drawFseq
  (memWriteAll s.rx 0 x.1).map fun m => ((s.setRx m).setWire (s.wire ++ x.2.1)).setEnv x.2.2

/-- The clocking time of a transfer at CR2's bit rate, in picoseconds (rules R9 and R157); no step reads it. -/
def transferTimePs (s : State) : Option Nat :=
  s.spi.bitrateHz.map fun hz => frameBits * 1000000000000 / hz.toNat

/-- The transfer step of U_XFER: F_WRONG_STATE if a receive index is out of range (rule R39). -/
def transferOn (c : Command) (k : Fin 8) (s : State) : Out :=
  match s.transfer with
  | some s' => moveOn c k s'
  | none => raiseFault .wrongState c.opcode s

/-- U_XFER (rule R96). Where the bus may hang, a draw decides; a transfer that hangs holds forever, before
any byte is written (rule R104; log 7). -/
def execUXfer (s : State) : Out :=
  microOp .uXfer s fun c k =>
    require (s.spi.txn && decide (s.cs.lvl = some .low)) c s
      (if s.hung then .next s
      else if s.cfg.busMayHang then
        if s.env.drawHang.1 then .next ((s.setEnv s.env.drawHang.2).setHung true)
        else transferOn c k (s.setEnv s.env.drawHang.2)
      else transferOn c k s)

/-- U_CS_DEASSERT (rule R100). -/
def execUCsDeassert (s : State) : Out :=
  microOp .uCsDeassert s fun c k =>
    require (s.spi.txn && decide (s.cs.lvl = some .low)) c s (moveOn c k (s.driveCs .high))

/-- U_TXN_END (rule R101). -/
def execUTxnEnd (s : State) : Out :=
  microOp .uTxnEnd s fun c k =>
    require (s.spi.txn && decide (s.cs.lvl = some .high)) c s
      (moveOn c k (s.setSpi { s.spi with txn := false, claim := false }))

/-- U_BUS_RELEASE (rule R102). -/
def execUBusRelease (s : State) : Out :=
  microOp .uBusRelease s fun c k =>
    moveOn c k (if s.spi.up then s.setSpi { s.spi with up := false } else s)

end Sys2Proof.Machine
end

