-- ==== Sys2Proof/Machine/Clock.lean ====
section
/-!
DEFINITION. The MCLK generator (spec/40_clock.md): U_MCLK_START, U_WAIT_STAB, and the waveform of rules
R77 and R78 as pure functions.
-/

namespace Sys2Proof.Machine

/-- CR1 once started (rules R75, R79, R80): the one legal value of each field, and SETTLED as it was. -/
def Mclk.started (m : Mclk) : Mclk :=
  { freqHz := some fMclk, resBits := some pwmResBits, duty := some pwmDuty, intrEn := some false,
    run := true, settled := m.settled }

/-- U_MCLK_START (rule R75). The block's own timer is not reported busy once RUN is 1 (rule R81). -/
def execUMclkStart (s : State) : Out :=
  microOp .uMclkStart s fun c k =>
    if !s.cfg.pinValid s.cfg.pins.mclk then returnError c .eInvalidPin s
    else if !s.mclk.run && !s.cfg.timerFree then returnError c .eClockCfg s
    else if !s.cfg.clockFeasible then returnError c .eClockCfg s
    else moveOn c k (s.setMclk s.mclk.started)

/-- U_WAIT_STAB (rule R76): one step that stands for at least T_STAB (log 19). -/
def execUWaitStab (s : State) : Out :=
  microOp .uWaitStab s fun c k =>
    moveOn c k (if s.mclk.run then s.setMclk { s.mclk with settled := true } else s)

/-! ## The waveform, for a timed reading of MCLK.RUN (rules R77 and R78); no step reads it -/

/-- One advance of the duty counter: RES_BITS = 2 bits, wrapping from 3 to 0. -/
def dutyCountNext (cnt : BitVec 2) : BitVec 2 := cnt + 1

/-- The clock output at a counter value: HIGH while CNT < DUTY (rule R78, marked there as general
knowledge). -/
def dutyOutput (duty : BitVec 4) (cnt : BitVec 2) : Level :=
  if cnt.toNat < duty.toNat then .high else .low

/-- The counter `n` advances after a wrap. -/
def dutyCountAt : Nat → BitVec 2
  | 0 => 0#2
  | n + 1 => dutyCountNext (dutyCountAt n)

/-- The level of the clock-out pin `n` counter steps after a wrap, once the generator runs; none before
that, when the level is any value (rule R32). -/
def clockLevel (s : State) (n : Nat) : Option Level :=
  if s.mclk.run then s.mclk.duty.map fun d => dutyOutput d (dutyCountAt n) else none

end Sys2Proof.Machine
end

