-- ==== Sys2Proof/Machine/Float.lean ====
section
/-!
DEFINITION. The binary floating-point arithmetic of the conversion helpers (spec/42_decoder.md rules R114
to R117): rounding to nearest, ties to even, and the two conversions under the three values of CVT_ARITH.

A rounded magnitude is kept as the integer whose binary digits are the exponent and fraction fields of
the format (the format's bits without the sign). For such a field, `fieldUnits` is its value counted in
units of the smallest subnormal; every finite value of a format is a whole number of units.
-/

namespace Sys2Proof.Machine

/-- A binary interchange format: `prec` bits of significand (the hidden bit included), `unitExp` such
that the smallest subnormal is 2^(-unitExp), and `expMax`, the exponent field of infinity. -/
structure Format where
  prec : Nat
  unitExp : Nat
  expMax : Nat
  deriving DecidableEq, Repr

/-- IEEE-754 binary32: 24-bit significand, smallest subnormal 2^-149 (G6). -/
def binary32 : Format := { prec := 24, unitExp := 149, expMax := 255 }

/-- IEEE-754 binary64: 53-bit significand, smallest subnormal 2^-1074. -/
def binary64 : Format := { prec := 53, unitExp := 1074, expMax := 2047 }

/-- The quotient `a / b` rounded to the nearest integer, ties to even. -/
def roundDiv (a b : Nat) : Nat :=
  if 2 * (a % b) < b then a / b
  else if b < 2 * (a % b) then a / b + 1
  else a / b + a / b % 2

/-- The field of infinity. -/
def Format.infinity (f : Format) : Nat := f.expMax * 2 ^ (f.prec - 1)

/-- How many binary places the value `n / d` units must lose so that `prec` significant bits remain
(0 in the subnormal range and in the lowest normal binade). -/
def Format.shift (f : Format) (n d : Nat) : Nat := Nat.log2 (n / d) + 1 - f.prec

/-- The field of the magnitude `n / d` units, rounded to nearest, ties to even. The carry out of the
significand runs into the exponent field, and a magnitude too large gives infinity. -/
def Format.roundUnits (f : Format) (n d : Nat) : Nat :=
  min (f.shift n d * 2 ^ (f.prec - 1) + roundDiv n (d * 2 ^ f.shift n d)) f.infinity

/-- The field of the rational magnitude `n / d`. -/
def Format.roundRat (f : Format) (n d : Nat) : Nat := f.roundUnits (n * 2 ^ f.unitExp) d

/-- The value, in units, of a finite field. -/
def Format.fieldUnits (f : Format) (field : Nat) : Nat :=
  if field / 2 ^ (f.prec - 1) = 0 then field
  else (2 ^ (f.prec - 1) + field % 2 ^ (f.prec - 1)) * 2 ^ (field / 2 ^ (f.prec - 1) - 1)

/-- The field of the product of two finite fields. -/
def Format.mul (f : Format) (a b : Nat) : Nat :=
  f.roundUnits (f.fieldUnits a * f.fieldUnits b) (2 ^ f.unitExp)

/-- A finite field of one format rounded into another. -/
def Format.convert (src dst : Format) (field : Nat) : Nat :=
  dst.roundRat (src.fieldUnits field) (2 ^ src.unitExp)

/-! ## The constants of rule R115 -/

/-- VREF32 = f32(1.2). -/
def vref32 : Nat := binary32.roundRat 12 10

/-- LSB32 = f32(VREF32 / 2^23). -/
def lsb32 : Nat := binary32.roundRat (binary32.fieldUnits vref32) (2 ^ 149 * 2 ^ 23)

/-- f32(1000.0), exact. -/
def thousand32 : Nat := binary32.roundRat 1000 1

/-- f32(LSB32 * 1000.0) of BINARY32_MVSCALE. -/
def lsbMv32 : Nat := binary32.mul lsb32 thousand32

/-- 1.2 in binary64. -/
def vref64 : Nat := binary64.roundRat 12 10

/-- 1.2 / 2^23 in binary64. -/
def lsb64 : Nat := binary64.roundRat (binary64.fieldUnits vref64) (2 ^ 1074 * 2 ^ 23)

/-- 1000.0 in binary64, exact. -/
def thousand64 : Nat := binary64.roundRat 1000 1

/-! ## The conversions -/

/-- The magnitude of an Int32 code. -/
def codeMagnitude (c : Word) : Nat := c.toInt.natAbs

/-- The field of |CvtV(c)| (rule R115): BINARY32 and BINARY32_MVSCALE multiply in binary32; DOUBLE
multiplies in binary64, where every Int32 is exact, and rounds the product to binary32 once. -/
def voltsField (arith : CvtArith) (m : Nat) : Nat :=
  match arith with
  | .binary32 => binary32.mul (binary32.roundRat m 1) lsb32
  | .binary32MvScale => binary32.mul (binary32.roundRat m 1) lsb32
  | .double => binary64.convert binary32 (binary64.mul (binary64.roundRat m 1) lsb64)

/-- The field of |CvtMV(c)| (rule R115). DOUBLE groups the product as the source writes it,
`c * (1.2 / 2^23)` first and then `* 1000.0`, each product in binary64. -/
def millivoltsField (arith : CvtArith) (m : Nat) : Nat :=
  match arith with
  | .binary32 => binary32.mul (voltsField .binary32 m) thousand32
  | .binary32MvScale => binary32.mul (binary32.roundRat m 1) lsbMv32
  | .double =>
    binary64.convert binary32 (binary64.mul (binary64.mul (binary64.roundRat m 1) lsb64) thousand64)

/-- A binary32 bit pattern: the sign of the code over the field of the magnitude (products and roundings
keep the sign, rule R117; code 0 is +0). -/
def packBinary32 (c : Word) (field : Nat) : Word :=
  BitVec.ofNat 32 ((if c.toInt < 0 then 2147483648 else 0) + field)

/-- CvtV(c) of rule R115: the bit pattern of a binary32 in volts. -/
def cvtVolts (arith : CvtArith) (c : Word) : Word := packBinary32 c (voltsField arith (codeMagnitude c))

/-- CvtMV(c) of rule R115: the bit pattern of a binary32 in millivolts. -/
def cvtMillivolts (arith : CvtArith) (c : Word) : Word :=
  packBinary32 c (millivoltsField arith (codeMagnitude c))

end Sys2Proof.Machine
end

