-- ==== Sys2Proof/Machine/Decoder.lean ====
section
/-!
DEFINITION. The frame decoder and the conversions (spec/42_decoder.md): U_DECODE, DECODE, CVT_V, CVT_MV.
-/

namespace Sys2Proof.Machine

/-- U_DECODE (rule R112): TMP <- DecodeFn of the receive buffer; F_WRONG_STATE on an unwritten byte. -/
def execUDecode (s : State) : Out :=
  microOp .uDecode s fun c k =>
    match memReadAll s.rx 0 frameLen with
    | some b => moveOn c k (s.setTmp (some (decodeFn b)))
    | none => raiseFault .wrongState c.opcode s

/-- DECODE (rule R113): the first 27 bytes of the operand; F_SHORT_BUFFER, with UPC at (DECODE, 0), for
fewer. -/
def execDecode (buf : List Byte) (s : State) : Out :=
  hostCommand .decode s fun s' =>
    if buf.length < frameLen then raiseFault .shortBuffer Command.decode.opcode s'
    else returnOk (.frame (decodeFn (buf.take frameLen))) s'

/-- CVT_V (rule R118). -/
def execCvtV (code : Word) (s : State) : Out :=
  hostCommand .cvtV s fun s' => returnOk (.f32 (cvtVolts s.cfg.cvtArith code)) s'

/-- CVT_MV (rule R119). -/
def execCvtMv (code : Word) (s : State) : Out :=
  hostCommand .cvtMv s fun s' => returnOk (.f32 (cvtMillivolts s.cfg.cvtArith code)) s'

end Sys2Proof.Machine
end

