-- ==== Sys2Proof/Machine/Facade.lean ====
section
/-!
DEFINITION. The command sequencer's commands that run micro-operations (spec/43_facade.md): INIT, READY,
READ, DESTROY. Each is accepted here, UPC <- (c, 0) (spec/10_state.md rule R18); the steps that follow run its
sequence, and the last of them ends it (log 9).
-/

namespace Sys2Proof.Machine

/-- INIT (rule R122): F_PIN_CONFLICT, with UPC at (INIT, 0) and no step run, when two pins coincide. -/
def execInit (s : State) : Out :=
  hostCommand .init s fun s' =>
    if !s.cfg.pins.distinct then raiseFault .pinConflict Command.init.opcode s' else .next s'

/-- READY (rule R123). -/
def execReady (s : State) : Out := hostCommand .ready s fun s' => .next s'

/-- READ (rule R124). -/
def execRead (s : State) : Out := hostCommand .read s fun s' => .next s'

/-- DESTROY (rule R125). -/
def execDestroy (s : State) : Out := hostCommand .destroy s fun s' => .next s'

end Sys2Proof.Machine
end

