-- ==== Sys2Proof/Machine/Dispatch.lean ====
section
/-!
DEFINITION. One arm for each row of spec/opcode_table.json: the call of that instruction's meaning.
-/

namespace Sys2Proof.Machine

def exec (i : Instr) (s : State) : Host.Outcome State Fault Refusal :=
  match i with
  | .init => Sys2Proof.Machine.execInit s
  | .ready => Sys2Proof.Machine.execReady s
  | .read => Sys2Proof.Machine.execRead s
  | .decode buf => Sys2Proof.Machine.execDecode buf s
  | .cvtV code => Sys2Proof.Machine.execCvtV code s
  | .cvtMv code => Sys2Proof.Machine.execCvtMv code s
  | .destroy => Sys2Proof.Machine.execDestroy s
  | .uMclkStart => Sys2Proof.Machine.execUMclkStart s
  | .uWaitStab => Sys2Proof.Machine.execUWaitStab s
  | .uCsInit => Sys2Proof.Machine.execUCsInit s
  | .uDrdyInit => Sys2Proof.Machine.execUDrdyInit s
  | .uBusUp => Sys2Proof.Machine.execUBusUp s
  | .uSampleDrdy => Sys2Proof.Machine.execUSampleDrdy s
  | .uTxnBegin => Sys2Proof.Machine.execUTxnBegin s
  | .uCsAssert => Sys2Proof.Machine.execUCsAssert s
  | .uXfer => Sys2Proof.Machine.execUXfer s
  | .uCsDeassert => Sys2Proof.Machine.execUCsDeassert s
  | .uTxnEnd => Sys2Proof.Machine.execUTxnEnd s
  | .uDecode => Sys2Proof.Machine.execUDecode s
  | .uBusRelease => Sys2Proof.Machine.execUBusRelease s

end Sys2Proof.Machine
end

