-- ==== Sys2Proof/Machine/Sequencer.lean ====
section
/-!
DEFINITION. Where a step gets its instruction: the host's byte stream when UPC is IDLE, the sequence of
the executing command otherwise; and the placement of one instruction where the next step takes it.
-/

namespace Sys2Proof.Machine

/-- UPC is IDLE: the next command of the host's stream is taken and executed. With no whole command there
the block waits (log 1). A byte that is no opcode raises F_ILLEGAL_CMD with UPC IDLE (rules R69 and R130); a
micro-operation's code does the same, inside its meaning. -/
def stepHost (s : State) : Out :=
  match decode s.host.cmdIn with
  | .instr i rest => exec i (s.setHost { s.host with cmdIn := rest })
  | .illegal opc rest => raiseFault .illegalCmd opc (s.setHost { s.host with cmdIn := rest })
  | .incomplete => .next s

/-- A command is executing: its micro-operation at the index runs (rule R18). -/
def stepSequence (c : Command) (k : Fin 8) (s : State) : Out :=
  match stepAt c k with
  | some i => exec i s
  | none => .refused .noSuchStep

/-- One step: a pending system reset is served first (rule R145); once FAULT is set there is no further
step (rules R29 and R133 (1)); else the sequencer or the host's next command. -/
def stepOnce (s : State) : Out :=
  if s.host.resetReq then .next s.systemReset
  else
    match s.fault with
    | some f => .fault (.stopped f.code)
    | none =>
      match s.upc with
      | .running c k => stepSequence c k s
      | .idle => stepHost s

/-- The step of a sequence at which a micro-operation is issued: the first in the order of rule R120. -/
def issueStep (i : Instr) : Upc :=
  match i with
  | .uMclkStart => .running .init 0
  | .uWaitStab => .running .init 1
  | .uCsInit => .running .init 2
  | .uDrdyInit => .running .init 3
  | .uBusUp => .running .init 4
  | .uSampleDrdy => .running .ready 0
  | .uTxnBegin => .running .read 1
  | .uCsAssert => .running .read 2
  | .uXfer => .running .read 3
  | .uCsDeassert => .running .read 4
  | .uTxnEnd => .running .read 5
  | .uDecode => .running .read 6
  | .uBusRelease => .running .destroy 0
  | .init => .idle
  | .ready => .idle
  | .read => .idle
  | .decode _ => .idle
  | .cvtV _ => .idle
  | .cvtMv _ => .idle
  | .destroy => .idle

/-- A state in which the next step is free to take an instruction: no fault, no hang, no reset request. -/
def State.unblocked (s : State) : State :=
  ((s.setFault none).setHung false).setHost { s.host with resetReq := false }

/-- One word of the opcode table placed where the next step takes its instruction (log 18): a
micro-operation by setting UPC to its step of a sequence, since the host cannot issue it (rule R60);
anything else at the front of the host's stream, with UPC IDLE. -/
def State.placeWord (s : State) (nbits w : Nat) : State :=
  match decodeTableWord nbits w with
  | some i =>
    if isMicroOpcode (opcode i) then s.unblocked.setUpc (issueStep i)
    else (s.unblocked.setUpc .idle).setHost { cmdIn := tableBytes nbits w ++ s.host.cmdIn, resetReq := false }
  | none => (s.unblocked.setUpc .idle).setHost { cmdIn := tableBytes nbits w ++ s.host.cmdIn, resetReq := false }

end Sys2Proof.Machine
end

