-- ==== Sys2Proof/Machine/HostLoop.lean ====
section
/-!
DEFINITION. The host's polling loop (spec/30_encoding.md rule R72): the pseudo-instruction WAIT_READY.
-/

namespace Sys2Proof.Machine

/-- The host issues one READY and lets it run: one step accepts it and one samples DRDY (rule R123). -/
def pollOnce (s : State) : Out :=
  match step (s.setHost { s.host with cmdIn := encode .ready ++ s.host.cmdIn }) with
  | .next s' => step s'
  | .fault f => .fault f
  | .refused r => .refused r

/-- RESULT is that of a READY that returned true. -/
def readyReturned (s : State) : Bool :=
  decide (s.result = some { code := .ok, payload := .bool true })

/-- WAIT_READY, cut off after `fuel` polls: READY again and again until one returns true. Its length is
the environment's; that it ends is a premise on the environment (rule R155). -/
def waitReady : Nat → State → Out
  | 0, s => .next s
  | fuel + 1, s =>
    match pollOnce s with
    | .next s' => if readyReturned s' then .next s' else waitReady fuel s'
    | .fault f => .fault f
    | .refused r => .refused r

end Sys2Proof.Machine
end

