-- ==== Sys2Proof/Safety.lean ====
section
/-!
DEFINITION. What counts as a safe run, in the terms the claims use: command boundaries, the invariant of
every state a run reaches, and the premises on the environment that no rule of the block checks.
-/

namespace Sys2Proof.Machine

/-! ## Positions -/

/-- A command boundary: UPC is IDLE and FAULT is none (spec/10_state.md section 10). -/
def AtBoundary (s : State) : Prop := s.fault = none ∧ s.upc = .idle

/-- The sequencer stands before step `k` of command `c`, with no fault. -/
def AtStep (s : State) (c : Command) (k : Fin 8) : Prop := s.fault = none ∧ s.upc = .running c k

/-- The critical section of rule R36: after U_CS_ASSERT and before U_CS_DEASSERT has completed. -/
def inCriticalSection (u : Upc) : Bool :=
  match u with
  | .running .read 3 => true
  | .running .read 4 => true
  | _ => false

/-- The transaction bracket: after U_TXN_BEGIN and before U_TXN_END has completed. -/
def inTransaction (u : Upc) : Bool :=
  match u with
  | .running .read 2 => true
  | .running .read 3 => true
  | .running .read 4 => true
  | .running .read 5 => true
  | _ => false

/-! ## Ranges -/

/-- The range of a channel value (spec/10_state.md rule R38). -/
def inCodeRange (w : Word) : Prop := -8388608 ≤ w.toInt ∧ w.toInt ≤ 8388607

/-- Every channel of a frame is in range. -/
def channelsInRange (ch : Vector Word 8) : Prop := ∀ w ∈ ch.toList, inCodeRange w

/-- A frame in a payload is in range, and only OK carries a payload (spec/30_encoding.md rule R61). -/
def Response.legal (r : Response) : Prop :=
  (∀ f, r.payload = .frame f → channelsInRange f.ch) ∧ (r.code ≠ .ok → r.payload = .none)

/-! ## The invariant -/

/-- CR1 holds its legal values once started and none before (rules R21, R79, R80). -/
def Mclk.legal (m : Mclk) : Prop :=
  if m.run then
    m.freqHz = some fMclk ∧ m.resBits = some pwmResBits ∧ m.duty = some pwmDuty ∧ m.intrEn = some false
  else m.freqHz = none ∧ m.resBits = none ∧ m.duty = none ∧ m.intrEn = none ∧ m.settled = false

/-- The four mode fields of CR2 hold mode 1 at 4 MHz, or none of them holds a value (rule R23). -/
def Spi.legal (p : Spi) : Prop :=
  (p.bitrateHz = some fSclk ∧ p.msbFirst = some true ∧ p.cpol = some false ∧ p.cpha = some true) ∨
  (p.bitrateHz = none ∧ p.msbFirst = none ∧ p.cpol = none ∧ p.cpha = none ∧ p.txn = false)

/-- FRAME_OUT is wholly there or wholly not (rules R27 and R38). -/
def FrameOut.legal (o : FrameOut) : Prop :=
  (o.valid = false ∧ o.status = none ∧ o.ch = none) ∨
  (o.valid = true ∧ o.status.isSome = true ∧ ∃ ch, o.ch = some ch ∧ channelsInRange ch)

/-- No hardware touched (rules R20 and R144). -/
def untouched (s : State) : Prop :=
  s.mclk = Mclk.reset ∧ s.spi = Spi.reset ∧ s.cs = Cs.reset ∧ s.drdy = .unconf

/-- What every state of a run satisfies; every step keeps it. -/
structure Inv (s : State) : Prop where
  /-- RX is in its canonical form and has no cell outside 0..26 (rules R37 and R39) -/
  rxWf : s.rx.wf = true
  /-- while no fault is set, UPC names a step its command has (rule R121) -/
  upcStep : s.fault = none → ∀ c k, s.upc = .running c k → (stepAt c k).isSome = true
  /-- the executing command is one the lifecycle admits (rule R131) -/
  upcAdmitted : ∀ c k, s.upc = .running c k → admitted c s.lc = true
  /-- a fault records the UPC it left standing (rules R18 and R130) -/
  faultUpc : ∀ f, s.fault = some f → f.upc = s.upc
  /-- CR1 -/
  mclkLegal : s.mclk.legal
  /-- CR2 -/
  spiLegal : s.spi.legal
  /-- the bus is up exactly in LC = INIT, and from U_BUS_UP on while INIT runs (rule R34) -/
  upIff : s.spi.up = true ↔ s.lc = .init ∨ s.upc = .running .init 5
  /-- the bus is up only with the clock running and settled (rules R35 and R150) -/
  upClock : s.spi.up = true → s.mclk.run = true ∧ s.mclk.settled = true
  /-- after INIT the pins are configured (rule R122) -/
  initPins : s.lc = .init → s.cs.dir = .out ∧ s.drdy = .input
  /-- what the completed steps of a running INIT have done (rule R120) -/
  initProgress : ∀ k, s.upc = .running .init k →
    (1 ≤ k.val → s.mclk.run = true) ∧ (2 ≤ k.val → s.mclk.settled = true) ∧
    (3 ≤ k.val → s.cs.dir = .out) ∧ (4 ≤ k.val → s.drdy = .input)
  /-- before INIT has done a step nothing is configured (rule R20, "no hardware touched") -/
  uninitUntouched : s.lc = .uninit → (∀ k, s.upc = .running .init k → k = 0) → untouched s
  /-- chip-select is HIGH from U_CS_INIT on, but for the critical section of a READ (rules R24, R36) -/
  csLevel : s.cs.lvl =
    (if s.cs.dir = .out then some (if inCriticalSection s.upc then .low else .high) else none)
  /-- TXN is the transaction bracket (rule R23) -/
  txnIff : s.spi.txn = inTransaction s.upc
  /-- the claim is held exactly inside the bracket (rules R93 and R101) -/
  claimIff : s.spi.claim = s.spi.txn
  /-- from the end of U_XFER on, every cell of RX holds a value (rules R96 and R112) -/
  rxFull : ∀ k, s.upc = .running .read k → 4 ≤ k.val → ∀ i < frameLen, (s.rx.read i).isSome = true
  /-- only a U_XFER hangs (rule R104) -/
  hungStep : s.hung = true → s.upc = .running .read 3
  /-- FRAME_OUT -/
  frameOutLegal : s.frameOut.legal
  /-- RESULT -/
  resultLegal : ∀ r, s.result = some r → r.legal
  /-- TMP -/
  tmpRange : ∀ f, s.tmp = some f → channelsInRange f.ch
  /-- the frame a transfer presented is not older than that of the last successful READ (rule R54) -/
  fseqOrder : ∀ k, s.upc = .running .read k → 4 ≤ k.val → s.env.fseqRead ≤ s.env.fseqXfer

/-! ## Premises on the environment (no rule of the block checks them) -/

/-- Rule R94: the other bus users release the claim at one of the attempts already fixed. -/
def claimReleased (s : State) : Prop := false ∈ s.env.claimIn

/-- Rule R155: the environment holds DRDY LOW at one of the samples already fixed. -/
def drdyComes (s : State) : Prop := Level.low ∈ s.env.drdyIn

/-- D9: T_STAB is at least 100 ms, which a claim about the ADC takes as a premise. -/
def stabilisationLongEnough (cfg : Config) : Prop := 100 ≤ cfg.tStabMs

/-- Rule R84: the clock actually produced is the nominal 8 MHz, a premise of claims about sample timing. -/
def clockExact (cfg : Config) : Prop := cfg.mclkActualHz = 8000000 ∧ cfg.mclkJitter = false

/-! ## Safe outcomes -/

/-- A step that goes on, with no fault taken. -/
def goesOn (o : Out) : Prop := ∃ s', o = .next s' ∧ s'.fault = none

end Sys2Proof.Machine
end

