-- ==== Sys2Proof/Certificates/Slice0/Obligations.lean ====
section
/-!
DEFINITION. The statements for the provers. Each says which rule of spec/ it formalises; a clause that rests on a
choice of the model names the log entry.
-/

open Sys2Proof Sys2Proof.Machine

/-! ## Terms the statements share -/

/-- FAULT written and nothing else (rule R130). -/
def Sys2Proof.Machine.faulted (s : State) (code : FaultCode) (opc : Byte) : State :=
  { s with fault := some { code := code, opc := opc, upc := s.upc } }

/-- A command ended with a result: RESULT written and UPC back to IDLE, nothing else (rules R18 and R28). -/
def Sys2Proof.Machine.ended (s : State) (code : ResultCode) (p : Payload) : State :=
  { s with result := some { code := code, payload := p }, upc := .idle }

/-- An INIT ended by an error result: LC = FAILED as well (rule R122). -/
def Sys2Proof.Machine.initFailed (s : State) (code : ResultCode) : State :=
  { s with result := some { code := code, payload := .none }, upc := .idle, lc := .failed }

/-- CR1 once started and settled (rules R75 and R76). -/
def Sys2Proof.Machine.mclkRunning : Mclk :=
  { freqHz := some 8000000#32, resBits := some 2#4, duty := some 2#4, intrEn := some false,
    run := true, settled := true }

/-- What an accepted INIT comes to (rules R122 and R133): the state after the effects of the steps before the
first failing one, with that step's result; the bus clauses are U_BUS_UP's, in its order. -/
def Sys2Proof.Machine.initOutcome (s : State) : State :=
  let clocked := { s with mclk := mclkRunning }
  let selected := { clocked with cs := { dir := .out, lvl := some .high }, wire := s.wire ++ [.cs .high] }
  let listening := { selected with drdy := .input }
  if s.cfg.pinValid s.cfg.pins.mclk = false then initFailed s .eInvalidPin
  else if s.mclk.run = false ∧ s.cfg.timerFree = false then initFailed s .eClockCfg
  else if s.cfg.clockFeasible = false then initFailed s .eClockCfg
  else if s.cfg.pinValid s.cfg.pins.cs = false then initFailed clocked .eInvalidPin
  else if s.cfg.pinValid s.cfg.pins.drdy = false then initFailed selected .eInvalidPin
  else if s.cfg.pinValid s.cfg.pins.sclk = false ∨ s.cfg.pinValid s.cfg.pins.mosi = false ∨
      s.cfg.pinValid s.cfg.pins.miso = false then initFailed listening .eInvalidPin
  else if s.cfg.busAvailable = false then initFailed listening .eBusCfg
  else { ended { listening with spi := { s.spi with up := true } } .ok .none with lc := .init }

/-! ## Encoding -/

/-- Rule R58 and the tables of rules R59 and R60: decoding an encoded well-formed instruction gives it back, with
every operand at every value, and leaves the bytes after it. -/
def Obligations.DecodeOfEncode : Prop :=
  ∀ (i : Instr) (rest : List Byte), WellFormed i = true → decode (encode i ++ rest) = .instr i rest

/-- The other direction: bytes that decode to an instruction are its encoding, and it is well-formed. -/
def Obligations.EncodeOfDecode : Prop :=
  ∀ (bytes : List Byte) (i : Instr) (rest : List Byte),
    decode bytes = .instr i rest → WellFormed i = true ∧ encode i ++ rest = bytes

/-- Words written out from rules R58 to R60 and the serialised examples of 95_test_vectors.md. -/
def Obligations.WrittenWordsDecode : Prop :=
  decode [0x01#8] = .instr .init [] ∧
  decode [0x03#8, 0x07#8] = .instr .read [0x07#8] ∧
  decode [0x04#8, 0x00#8, 0x02#8, 0xAA#8, 0xBB#8] = .instr (.decode [0xAA#8, 0xBB#8]) [] ∧
  decode [0x05#8, 0xFF#8, 0x80#8, 0x00#8, 0x00#8] = .instr (.cvtV 0xFF800000#32) [] ∧
  decode [0x06#8, 0x00#8, 0x12#8, 0x34#8, 0x56#8] = .instr (.cvtMv 1193046#32) [] ∧
  decode [0x80#8] = .instr .uMclkStart [] ∧
  decode [0x88#8] = .instr .uXfer [] ∧
  decode [0x8B#8] = .instr .uDecode [] ∧
  decode [0x8D#8] = .illegal 0x8D#8 []

/-- Rules R61, R127 and R130: the numeric result and fault codes, and the serialised response of every payload, the
result code first and each value most significant byte first. -/
def Obligations.ResponseBytes : Prop :=
  ResultCode.ok.toByte = 0x00#8 ∧ ResultCode.notReady.toByte = 0x01#8 ∧
  ResultCode.eInvalidPin.toByte = 0x10#8 ∧ ResultCode.eClockCfg.toByte = 0x11#8 ∧
  ResultCode.eBusCfg.toByte = 0x12#8 ∧
  FaultCode.illegalCmd.toByte = 0xE0#8 ∧ FaultCode.wrongState.toByte = 0xE1#8 ∧
  FaultCode.shortBuffer.toByte = 0xE2#8 ∧ FaultCode.pinConflict.toByte = 0xE3#8 ∧
  ∀ (code : ResultCode),
    (∀ p : Payload, ({ code := code, payload := p } : Response).bytes[0]? = some code.toByte) ∧
    ({ code := code, payload := .none } : Response).bytes = [code.toByte] ∧
    (∀ b : Bool, ({ code := code, payload := .bool b } : Response).bytes =
      [code.toByte, if b then 0x01#8 else 0x00#8]) ∧
    (∀ v : Word, ∃ b3 b2 b1 b0 : Byte, b3 ++ b2 ++ b1 ++ b0 = v ∧
      ({ code := code, payload := .f32 v } : Response).bytes = [code.toByte, b3, b2, b1, b0]) ∧
    (∀ f : Frame, ({ code := code, payload := .frame f } : Response).bytes.length = 36 ∧
      (∀ j < 3, ({ code := code, payload := .frame f } : Response).bytes[1 + j]? =
        some (f.status.extractLsb' (16 - 8 * j) 8)) ∧
      (∀ (k : Fin 8) (j : Nat), j < 4 →
        ({ code := code, payload := .frame f } : Response).bytes[4 + 4 * k.val + j]? =
          some ((f.ch[k]).extractLsb' (24 - 8 * j) 8)))

/-! ## The step -/

/-- At a command boundary the step executes the instruction the host's bytes decode to, having taken its bytes
(log 1); with no whole command there it waits. -/
def Obligations.StepRunsHostCommand : Prop :=
  ∀ s : State, AtBoundary s → s.host.resetReq = false →
    (∀ i rest, decode s.host.cmdIn = .instr i rest →
      step s = exec i { s with host := { cmdIn := rest, resetReq := false } }) ∧
    (decode s.host.cmdIn = .incomplete → step s = .next s)

/-- Rule R120: which micro-operation the step runs at each index of each command, and where a sequence ends. -/
def Obligations.StepRunsSequences : Prop :=
  ∀ s : State, s.fault = none → s.host.resetReq = false →
    (s.upc = .running .init 0 → step s = exec .uMclkStart s) ∧
    (s.upc = .running .init 1 → step s = exec .uWaitStab s) ∧
    (s.upc = .running .init 2 → step s = exec .uCsInit s) ∧
    (s.upc = .running .init 3 → step s = exec .uDrdyInit s) ∧
    (s.upc = .running .init 4 → step s = exec .uBusUp s) ∧
    (s.upc = .running .init 5 → step s = exec .uWaitStab s) ∧
    (s.upc = .running .ready 0 → step s = exec .uSampleDrdy s) ∧
    (s.upc = .running .read 0 → step s = exec .uSampleDrdy s) ∧
    (s.upc = .running .read 1 → step s = exec .uTxnBegin s) ∧
    (s.upc = .running .read 2 → step s = exec .uCsAssert s) ∧
    (s.upc = .running .read 3 → step s = exec .uXfer s) ∧
    (s.upc = .running .read 4 → step s = exec .uCsDeassert s) ∧
    (s.upc = .running .read 5 → step s = exec .uTxnEnd s) ∧
    (s.upc = .running .read 6 → step s = exec .uDecode s) ∧
    (s.upc = .running .destroy 0 → step s = exec .uBusRelease s) ∧
    stepAt .init 6 = none ∧ stepAt .init 7 = none ∧ stepAt .read 7 = none ∧
    (∀ k, 1 ≤ k.val → stepAt .ready k = none ∧ stepAt .destroy k = none) ∧
    (∀ k, stepAt .decode k = none ∧ stepAt .cvtV k = none ∧ stepAt .cvtMv k = none)

/-- Rules R144 and R145: a system reset, whatever the block was doing (a fault and a hang included), leaves every
item of rule R144's table at its value. -/
def Obligations.SystemResetReconstructs : Prop :=
  ∀ s : State, s.host.resetReq = true → ∃ t, step s = .next t ∧
    t.cfg.pins = s.cfg.pins ∧ t.lc = .uninit ∧ t.mclk.run = false ∧ t.mclk.settled = false ∧
    t.mclk.freqHz = none ∧ t.mclk.resBits = none ∧ t.mclk.duty = none ∧ t.mclk.intrEn = none ∧
    t.spi.up = false ∧ t.spi.txn = false ∧ t.spi.claim = false ∧
    t.spi.bitrateHz = none ∧ t.spi.msbFirst = none ∧ t.spi.cpol = none ∧ t.spi.cpha = none ∧
    t.cs.dir = .unconf ∧ t.cs.lvl = none ∧ t.drdy = .unconf ∧ (∀ i, t.rx.read i = none) ∧
    t.frameOut.valid = false ∧ t.frameOut.status = none ∧ t.frameOut.ch = none ∧
    t.result = none ∧ t.fault = none ∧ t.upc = .idle ∧
    (∀ r : PinRole, pinView r t = .anyValue ∨ pinView r t = .external)

/-! ## Faults, admission, priority -/

/-- Rule R69: the illegal opcodes of the host interface, the micro-operation codes among them, in every lifecycle
state (rule R133 (2)). The taken byte leaves the host's stream (log 1). -/
def Obligations.IllegalOpcodesFault : Prop :=
  ∀ (s : State) (opc : Byte) (rest : List Byte), AtBoundary s → s.host.resetReq = false →
    s.host.cmdIn = opc :: rest → (opc = 0x00#8 ∨ 0x08 ≤ opc.toNat) →
    step s = .next { s with
      host := { cmdIn := rest, resetReq := false },
      fault := some { code := .illegalCmd, opc := opc, upc := .idle } }

/-- Rules R60 and R69 on the meanings: each of the 13 micro-operations, issued at the host interface. -/
def Obligations.MicroOperationsIllegalAtHost : Prop :=
  ∀ (s : State) (i : Instr), AtBoundary s → isMicroOpcode (opcode i) = true →
    exec i s = .next (faulted s .illegalCmd (opcode i))

/-- Rules R14, R141 and R152: whatever is issued while a command executes is refused. That a micro-operation is refused
too, and that the sequencer's own current one is not, is the model's deduction (log 8). -/
def Obligations.ConcurrentCommandsRefused : Prop :=
  ∀ (s : State) (i : Instr) (c : Command) (k : Fin 8), AtStep s c k → stepAt c k ≠ some i →
    exec i s = .refused .concurrentCommand

/-- Rule R133 (1) and rule R29: once FAULT is set nothing has a step, and only a system reset ends that. -/
def Obligations.FaultStopsTheBlock : Prop :=
  ∀ (s : State) (f : FaultRecord), s.fault = some f →
    (∀ i : Instr, exec i s = .fault (.stopped f.code)) ∧
    (s.host.resetReq = false → step s = .fault (.stopped f.code))

/-- Rule R131: the admission table, both ways. -/
def Obligations.LifecycleAdmission : Prop :=
  ∀ s : State, AtBoundary s →
    (exec .init s = .next (faulted s .wrongState 0x01#8) ↔ s.lc ≠ .uninit) ∧
    (exec .ready s = .next (faulted s .wrongState 0x02#8) ↔ s.lc ≠ .init) ∧
    (exec .read s = .next (faulted s .wrongState 0x03#8) ↔ s.lc ≠ .init) ∧
    (∀ buf, exec (.decode buf) s = .next (faulted s .wrongState 0x04#8) ↔
      s.lc = .failed ∨ s.lc = .destroyed) ∧
    (∀ c, exec (.cvtV c) s = .next (faulted s .wrongState 0x05#8) ↔ s.lc = .failed ∨ s.lc = .destroyed) ∧
    (∀ c, exec (.cvtMv c) s = .next (faulted s .wrongState 0x06#8) ↔ s.lc = .failed ∨ s.lc = .destroyed) ∧
    (exec .destroy s = .next (faulted s .wrongState 0x07#8) ↔ s.lc = .destroyed)

/-- Rule R130: the operand checks record (c, 0), after the lifecycle check (rule R133 (4)). -/
def Obligations.OperandChecksFault : Prop :=
  ∀ s : State, AtBoundary s →
    (s.lc = .uninit → ¬ s.cfg.pins.toList.Nodup →
      exec .init s = .next { s with
        upc := .running .init 0,
        fault := some { code := .pinConflict, opc := 0x01#8, upc := .running .init 0 } }) ∧
    (∀ buf : List Byte, s.lc = .uninit ∨ s.lc = .init → buf.length < 27 →
      exec (.decode buf) s = .next { s with
        upc := .running .decode 0,
        fault := some { code := .shortBuffer, opc := 0x04#8, upc := .running .decode 0 } })

/-! ## Commands -/

/-- Rule R122: INIT in every lifecycle state and every environment: the faults, and from acceptance the whole run,
which ends within six further steps in the outcome of the first failing step, or with OK. -/
def Obligations.InitRunsToItsResult : Prop :=
  ∀ s : State, AtBoundary s → s.host.resetReq = false →
    (s.lc ≠ .uninit → exec .init s = .next (faulted s .wrongState 0x01#8)) ∧
    (s.lc = .uninit → ¬ s.cfg.pins.toList.Nodup →
      exec .init s = .next (faulted { s with upc := .running .init 0 } .pinConflict 0x01#8)) ∧
    (s.lc = .uninit → s.cfg.pins.toList.Nodup →
      exec .init s = .next { s with upc := .running .init 0 } ∧
      ∃ n ≤ 6, Host.Core.run Sys2Proof.core n { s with upc := .running .init 0 } = .next (initOutcome s))

/-- Rule R123: READY, for either level of DRDY; only RESULT and the environment's sample change. -/
def Obligations.ReadyReturnsTheLevel : Prop :=
  ∀ s : State, AtBoundary s → s.host.resetReq = false →
    (s.lc ≠ .init → exec .ready s = .next (faulted s .wrongState 0x02#8)) ∧
    (s.lc = .init → s.drdy = .input →
      exec .ready s = .next { s with upc := .running .ready 0 } ∧
      step { s with upc := .running .ready 0 } =
        .next { ended s .ok (.bool (decide (s.env.drawDrdy.1 = .low))) with env := s.env.drawDrdy.2 })

/-- Rule R124, the NOT_READY half: with DRDY HIGH at step 0 a READ ends there; RX, FRAME_OUT, the pins and every
control register are unchanged. -/
def Obligations.ReadNotReady : Prop :=
  ∀ s : State, AtBoundary s → s.host.resetReq = false → s.lc = .init → s.drdy = .input →
    s.env.drawDrdy.1 = .high →
    exec .read s = .next { s with upc := .running .read 0 } ∧
    step { s with upc := .running .read 0 } =
      .next { ended s .notReady .none with env := s.env.drawDrdy.2 }

/-- Rule R124, the OK half. READ is accepted in every state at a command boundary with LC = INIT. With DRDY LOW, from
any state of a run, on a bus that is neither shared nor able to hang, seven further steps deliver the frame decoded from
the 27 bytes of the exchange of rules R96 and R97 on what the environment presents after the sample. CS goes LOW before
the first SCLK edge and HIGH after the last (rule R53); the claim is released, the mode fields are in force, and nothing
else changes. The steps are those of log 9, `wire` is the record of log 12, and the frame number the ghost of log 11. -/
def Obligations.ReadDeliversOneFrame : Prop :=
  (∀ s : State, AtBoundary s → s.lc = .init → exec .read s = .next { s with upc := .running .read 0 }) ∧
  ∀ s : State, Inv s → AtBoundary s → s.host.resetReq = false → s.lc = .init →
    s.env.drawDrdy.1 = .low → s.cfg.sharedBus = false → s.cfg.busMayHang = false →
    let x := xbytes 27 s.env.drawDrdy.2.drawFseq
    x.1.length = 27 ∧ x.2.1.length = 2 * 8 * 27 ∧ (∀ l, WireEvent.cs l ∉ x.2.1) ∧
    ∃ m : Memory, (∀ i < 27, m.read i = x.1[i]?) ∧ (∀ i, 27 ≤ i → m.read i = s.rx.read i) ∧
      Host.Core.run Sys2Proof.core 7 { s with upc := .running .read 0 } = .next { s with
        rx := m
        tmp := some (decodeFn x.1)
        frameOut := { valid := true, status := some (decodeFn x.1).status, ch := some (decodeFn x.1).ch }
        result := some { code := .ok, payload := .frame (decodeFn x.1) }
        wire := s.wire ++ [.cs .low] ++ x.2.1 ++ [.cs .high]
        spi := { s.spi with
          bitrateHz := some 4000000#32, msbFirst := some true, cpol := some false, cpha := some true,
          txn := false, claim := false }
        env := { x.2.2 with fseqRead := x.2.2.fseqXfer } }

/-- Rule R125: DESTROY from every lifecycle state; the clock, CS and the mode fields stay, and SCLK and MOSI are any
value afterwards. -/
def Obligations.DestroyReleasesTheBus : Prop :=
  ∀ s : State, AtBoundary s → s.host.resetReq = false →
    (s.lc = .destroyed → exec .destroy s = .next (faulted s .wrongState 0x07#8)) ∧
    (s.lc ≠ .destroyed →
      exec .destroy s = .next { s with upc := .running .destroy 0 } ∧
      ∃ t, step { s with upc := .running .destroy 0 } = .next t ∧
        t = { ended s .ok .none with lc := .destroyed, spi := { s.spi with up := false } } ∧
        pinView .sclk t = .anyValue ∧ pinView .mosi t = .anyValue)

/-- Rule R113: DECODE uses the first 27 bytes of its operand and writes RESULT only. -/
def Obligations.DecodeCommandResult : Prop :=
  ∀ (s : State) (buf : List Byte), AtBoundary s →
    (s.lc = .failed ∨ s.lc = .destroyed → exec (.decode buf) s = .next (faulted s .wrongState 0x04#8)) ∧
    (s.lc = .uninit ∨ s.lc = .init →
      (buf.length < 27 →
        exec (.decode buf) s = .next (faulted { s with upc := .running .decode 0 } .shortBuffer 0x04#8)) ∧
      (27 ≤ buf.length →
        exec (.decode buf) s = .next (ended s .ok (.frame (decodeFn (buf.take 27))))))

/-- Rule R118: CVT_V returns CvtV of the code under the block's CVT_ARITH and writes RESULT only; the values the rule
gives, under BINARY32. -/
def Obligations.VoltsCommandResult : Prop :=
  ∀ (s : State) (c : Word), AtBoundary s →
    (s.lc = .failed ∨ s.lc = .destroyed → exec (.cvtV c) s = .next (faulted s .wrongState 0x05#8)) ∧
    (s.lc = .uninit ∨ s.lc = .init →
      exec (.cvtV c) s = .next (ended s .ok (.f32 (cvtVolts s.cfg.cvtArith c)))) ∧
    cvtVolts .binary32 0#32 = 0x00000000#32 ∧ cvtVolts .binary32 (BitVec.ofInt 32 (-8388608)) = 0xBF99999A#32 ∧
    cvtVolts .binary32 8388607#32 = 0x3F999999#32 ∧ cvtVolts .binary32 4194304#32 = 0x3F19999A#32

/-- Rule R119: CVT_MV returns CvtMV of the code under the block's CVT_ARITH and writes RESULT only; the values the rule
gives. -/
def Obligations.MillivoltsCommandResult : Prop :=
  ∀ (s : State) (c : Word), AtBoundary s →
    (s.lc = .failed ∨ s.lc = .destroyed → exec (.cvtMv c) s = .next (faulted s .wrongState 0x06#8)) ∧
    (s.lc = .uninit ∨ s.lc = .init →
      exec (.cvtMv c) s = .next (ended s .ok (.f32 (cvtMillivolts s.cfg.cvtArith c)))) ∧
    cvtMillivolts .binary32 0#32 = 0x00000000#32 ∧
    cvtMillivolts .binary32 (BitVec.ofInt 32 (-8388608)) = 0xC4960000#32 ∧
    cvtMillivolts .binary32 1193046#32 = 0x432AAAA7#32 ∧
    cvtMillivolts .binary32MvScale 1193046#32 = 0x432AAAA6#32 ∧
    cvtMillivolts .double 1193046#32 = 0x432AAAA6#32 ∧ cvtMillivolts .binary32 4194304#32 = 0x44160000#32

/-! ## Micro-operations of INIT -/

/-- Rule R75: U_MCLK_START, its two error results in their order, and a second start (RUN already 1), which does not
look at the timer. -/
def Obligations.MclkStartEffect : Prop :=
  ∀ s : State, AtStep s .init 0 →
    (s.cfg.pinValid s.cfg.pins.mclk = false → exec .uMclkStart s = .next (initFailed s .eInvalidPin)) ∧
    (s.cfg.pinValid s.cfg.pins.mclk = true → s.mclk.run = false → s.cfg.timerFree = false →
      exec .uMclkStart s = .next (initFailed s .eClockCfg)) ∧
    (s.cfg.pinValid s.cfg.pins.mclk = true → s.mclk.run = true ∨ s.cfg.timerFree = true →
      s.cfg.clockFeasible = false → exec .uMclkStart s = .next (initFailed s .eClockCfg)) ∧
    (s.cfg.pinValid s.cfg.pins.mclk = true → s.mclk.run = true ∨ s.cfg.timerFree = true →
      s.cfg.clockFeasible = true →
      ∃ t, exec .uMclkStart s = .next t ∧ pinView .mclk t = .masterClock ∧ t = { s with
        mclk := { freqHz := some 8000000#32, resBits := some 2#4, duty := some 2#4, intrEn := some false,
                  run := true, settled := s.mclk.settled },
        upc := .running .init 1 })

/-- Rule R76: U_WAIT_STAB at both of its steps; that the second ends INIT with OK (rules R18 and R122) in the same step
is the model's choice (log 9). -/
def Obligations.WaitStabEffect : Prop :=
  ∀ s : State,
    (AtStep s .init 1 → exec .uWaitStab s = .next { s with
      mclk := { s.mclk with settled := s.mclk.run || s.mclk.settled }, upc := .running .init 2 }) ∧
    (AtStep s .init 5 → exec .uWaitStab s = .next { ended s .ok .none with
      mclk := { s.mclk with settled := s.mclk.run || s.mclk.settled }, lc := .init })

/-- Rule R87: U_CS_INIT. -/
def Obligations.CsInitEffect : Prop :=
  ∀ s : State, AtStep s .init 2 →
    (s.cfg.pinValid s.cfg.pins.cs = false → exec .uCsInit s = .next (initFailed s .eInvalidPin)) ∧
    (s.cfg.pinValid s.cfg.pins.cs = true →
      ∃ t, exec .uCsInit s = .next t ∧ pinView .cs t = .driven .high ∧ t = { s with
        cs := { dir := .out, lvl := some .high }, wire := s.wire ++ [.cs .high], upc := .running .init 3 })

/-- Rule R88: U_DRDY_INIT. -/
def Obligations.DrdyInitEffect : Prop :=
  ∀ s : State, AtStep s .init 3 →
    (s.cfg.pinValid s.cfg.pins.drdy = false → exec .uDrdyInit s = .next (initFailed s .eInvalidPin)) ∧
    (s.cfg.pinValid s.cfg.pins.drdy = true →
      exec .uDrdyInit s = .next { s with drdy := .input, upc := .running .init 4 })

/-- Rule R89: U_BUS_UP, E_INVALID_PIN before E_BUS_CFG (rule R133); MOSI, and SCLK until a U_TXN_BEGIN has set CPOL,
are any value. -/
def Obligations.BusUpEffect : Prop :=
  ∀ s : State, AtStep s .init 4 →
    (s.cfg.pinValid s.cfg.pins.sclk = false ∨ s.cfg.pinValid s.cfg.pins.mosi = false ∨
      s.cfg.pinValid s.cfg.pins.miso = false → exec .uBusUp s = .next (initFailed s .eInvalidPin)) ∧
    (s.cfg.pinValid s.cfg.pins.sclk = true → s.cfg.pinValid s.cfg.pins.mosi = true →
      s.cfg.pinValid s.cfg.pins.miso = true →
      (s.cfg.busAvailable = false → exec .uBusUp s = .next (initFailed s .eBusCfg)) ∧
      (s.cfg.busAvailable = true →
        ∃ t, exec .uBusUp s = .next t ∧ pinView .mosi t = .anyValue ∧
          (s.spi.cpol = none → pinView .sclk t = .anyValue) ∧
          t = { s with spi := { s.spi with up := true }, upc := .running .init 5 }))

/-! ## Micro-operations of READY, READ and DESTROY -/

/-- Rule R90: U_SAMPLE_DRDY in READY and in READ, for either level, and its precondition. -/
def Obligations.SampleDrdyEffect : Prop :=
  ∀ s : State,
    (AtStep s .ready 0 →
      (s.drdy = .unconf → exec .uSampleDrdy s = .next (faulted s .wrongState 0x02#8)) ∧
      (s.drdy = .input → exec .uSampleDrdy s =
        .next { ended s .ok (.bool (decide (s.env.drawDrdy.1 = .low))) with env := s.env.drawDrdy.2 })) ∧
    (AtStep s .read 0 →
      (s.drdy = .unconf → exec .uSampleDrdy s = .next (faulted s .wrongState 0x03#8)) ∧
      (s.drdy = .input → s.env.drawDrdy.1 = .low →
        exec .uSampleDrdy s = .next { s with env := s.env.drawDrdy.2, upc := .running .read 1 }) ∧
      (s.drdy = .input → s.env.drawDrdy.1 = .high →
        exec .uSampleDrdy s = .next { ended s .notReady .none with env := s.env.drawDrdy.2 }))

/-- Rule R93: U_TXN_BEGIN: its precondition, the hold on a shared bus (each attempt a step, log 7), and the bracket it
opens, in which SCLK idles LOW. -/
def Obligations.TxnBeginEffect : Prop :=
  ∀ s : State, AtStep s .read 1 →
    (¬ (s.spi.up = true ∧ s.mclk.settled = true ∧ s.spi.txn = false) →
      exec .uTxnBegin s = .next (faulted s .wrongState 0x03#8)) ∧
    (s.spi.up = true → s.mclk.settled = true → s.spi.txn = false →
      let begun : Spi :=
        { up := true, bitrateHz := some 4000000#32, msbFirst := some true, cpol := some false,
          cpha := some true, txn := true, claim := true }
      (s.cfg.sharedBus = false →
        exec .uTxnBegin s = .next { s with spi := begun, upc := .running .read 2 }) ∧
      (s.cfg.sharedBus = true → s.env.drawClaim.1 = true →
        exec .uTxnBegin s = .next { s with env := s.env.drawClaim.2 }) ∧
      (s.cfg.sharedBus = true → s.env.drawClaim.1 = false →
        exec .uTxnBegin s =
          .next { s with env := s.env.drawClaim.2, spi := begun, upc := .running .read 2 }) ∧
      (∀ t : State, t.spi = begun → pinView .sclk t = .driven .low))

/-- Rule R95: U_CS_ASSERT. -/
def Obligations.CsAssertEffect : Prop :=
  ∀ s : State, AtStep s .read 2 →
    (¬ (s.spi.txn = true ∧ s.cs.dir = .out ∧ s.cs.lvl = some .high) →
      exec .uCsAssert s = .next (faulted s .wrongState 0x03#8)) ∧
    (s.spi.txn = true → s.cs.dir = .out → s.cs.lvl = some .high →
      ∃ t, exec .uCsAssert s = .next t ∧ pinView .cs t = .driven .low ∧ t = { s with
        cs := { dir := .out, lvl := some .low }, wire := s.wire ++ [.cs .low], upc := .running .read 3 })

/-- Rule R96: U_XFER: its precondition, the hang (log 7), and the transfer: RX[0..26] take the 27 bytes of the exchange
of rule R97 in order of arrival whatever they held, no other index does, and nothing else of the block changes (the
frame number drawn is the ghost of log 11). -/
def Obligations.XferEffect : Prop :=
  ∀ s : State, AtStep s .read 3 →
    (¬ (s.spi.txn = true ∧ s.cs.lvl = some .low) →
      exec .uXfer s = .next (faulted s .wrongState 0x03#8)) ∧
    (s.spi.txn = true → s.cs.lvl = some .low →
      (s.hung = true → exec .uXfer s = .next s) ∧
      (s.hung = false → s.cfg.busMayHang = true → s.env.drawHang.1 = true →
        exec .uXfer s = .next { s with env := s.env.drawHang.2, hung := true }) ∧
      (s.hung = false → s.cfg.busMayHang = false ∨ s.env.drawHang.1 = false →
        let e := if s.cfg.busMayHang then s.env.drawHang.2 else s.env
        let x := xbytes 27 e.drawFseq
        x.1.length = 27 ∧
        ∃ m, exec .uXfer s = .next { s with
            rx := m, wire := s.wire ++ x.2.1, env := x.2.2, upc := .running .read 4 } ∧
          (∀ i < 27, m.read i = x.1[i]?) ∧ (∀ i, 27 ≤ i → m.read i = s.rx.read i)))

/-- Rule R100: U_CS_DEASSERT. -/
def Obligations.CsDeassertEffect : Prop :=
  ∀ s : State, AtStep s .read 4 →
    (¬ (s.spi.txn = true ∧ s.cs.lvl = some .low) →
      exec .uCsDeassert s = .next (faulted s .wrongState 0x03#8)) ∧
    (s.spi.txn = true → s.cs.lvl = some .low →
      ∃ t, exec .uCsDeassert s = .next t ∧ (s.cs.dir = .out → pinView .cs t = .driven .high) ∧ t = { s with
        cs := { s.cs with lvl := some .high }, wire := s.wire ++ [.cs .high], upc := .running .read 5 })

/-- Rule R101: U_TXN_END; the mode fields keep their values. -/
def Obligations.TxnEndEffect : Prop :=
  ∀ s : State, AtStep s .read 5 →
    (¬ (s.spi.txn = true ∧ s.cs.lvl = some .high) →
      exec .uTxnEnd s = .next (faulted s .wrongState 0x03#8)) ∧
    (s.spi.txn = true → s.cs.lvl = some .high →
      exec .uTxnEnd s = .next { s with
        spi := { s.spi with txn := false, claim := false }, upc := .running .read 6 })

/-- Rule R112: TMP takes the decoded frame; an unwritten byte faults. That the same step ends READ (rules R18 and R124),
writing FRAME_OUT, RESULT and UPC, is the model's choice (log 9), and the frame number that moves up is the ghost of
log 11. -/
def Obligations.DecodeStepEffect : Prop :=
  ∀ s : State, AtStep s .read 6 →
    ((∃ i < 27, s.rx.read i = none) → exec .uDecode s = .next (faulted s .wrongState 0x03#8)) ∧
    (∀ b : List Byte, b.length = 27 → (∀ i < 27, s.rx.read i = b[i]?) →
      exec .uDecode s = .next { ended s .ok (.frame (decodeFn b)) with
        tmp := some (decodeFn b),
        frameOut := { valid := true, status := some (decodeFn b).status, ch := some (decodeFn b).ch },
        env := { s.env with fseqRead := s.env.fseqXfer } })

/-- Rule R102: a bus that is down stays down, the clock and CS stay, and SCLK and MOSI are any value. That the same step
ends DESTROY (rules R18 and R125), writing LC, RESULT and UPC, is the model's choice (log 9). -/
def Obligations.BusReleaseEffect : Prop :=
  ∀ s : State, AtStep s .destroy 0 →
    ∃ t, exec .uBusRelease s = .next t ∧ pinView .sclk t = .anyValue ∧ pinView .mosi t = .anyValue ∧
      t = { ended s .ok .none with spi := { s.spi with up := false }, lc := .destroyed }

/-! ## Exchange of bits, holds and hangs -/

/-- Rule R97: for each bit position 7 to 0, SCLK rises with MOSI = t[p] and then falls with MISO sampled as r[p]; the
byte returned is r, and where the environment has fixed the bits r is those, first bit 7. -/
def Obligations.ByteExchange : Prop :=
  ∀ (t : Byte) (e : Env),
    let x := xbyte t e
    x.2.1 = [7, 6, 5, 4, 3, 2, 1, 0].flatMap
      (fun p => [.sclkRise (.ofBit (t.getLsbD p)), .sclkFall (.ofBit (t.getLsbD p)) (x.1.getLsbD p)]) ∧
    (∀ (bits later : List Bool), bits.length = 8 → e.misoIn = bits ++ later →
      x.2.2.misoIn = later ∧ ∀ p < 8, x.1.getLsbD p = bits[7 - p]!)

/-- Rule R63: of the 216 bits the environment presents in one transfer, bit s lands in byte s div 8 at bit position
7 - (s mod 8). -/
def Obligations.StreamBitPlaces : Prop :=
  ∀ (e : Env) (bits later : List Bool), bits.length = 216 → e.misoIn = bits ++ later →
    (xbytes 27 e).1.length = 27 ∧
    ∀ n < 216, ((xbytes 27 e).1[n / 8]!).getLsbD (7 - n % 8) = bits[n]!

/-- Rule R65: MOSI is LOW at every edge of a transfer, and every event of it is an SCLK edge. -/
def Obligations.TransmitAllZero : Prop :=
  ∀ (n : Nat) (e : Env), ∀ w ∈ (xbytes n e).2.1, w = .sclkRise .low ∨ ∃ b, w = .sclkFall .low b

/-- Rule R94: on a shared bus U_TXN_BEGIN holds for as long as another user has the claim, with the block's state
unchanged, and takes the claim at the first attempt that finds it free. -/
def Obligations.SharedBusHold : Prop :=
  ∀ (s : State) (n : Nat) (later : List Bool), AtStep s .read 1 → s.host.resetReq = false →
    s.cfg.sharedBus = true → s.spi.up = true → s.mclk.settled = true → s.spi.txn = false →
    s.env.claimIn = List.replicate n true ++ false :: later →
    Host.Core.run Sys2Proof.core n s =
      .next { s with env := { s.env with claimIn := false :: later, drawn := s.env.drawn + n } } ∧
    Host.Core.run Sys2Proof.core (n + 1) s = .next { s with
      env := { s.env with claimIn := later, drawn := s.env.drawn + n + 1 },
      spi := { up := true, bitrateHz := some 4000000#32, msbFirst := some true, cpol := some false,
               cpha := some true, txn := true, claim := true },
      upc := .running .read 2 }

/-- Rule R104: a transfer that hangs holds forever: no number of steps changes anything, until a system reset. -/
def Obligations.HangHoldsForever : Prop :=
  ∀ (s : State) (n : Nat), Inv s → s.hung = true → s.fault = none → s.host.resetReq = false →
    Host.Core.run Sys2Proof.core n s = .next s

/-- Rule R72: the host's polling loop ends at the first sample that finds DRDY LOW, after as many READYs as samples. -/
def Obligations.PollingEndsAtLow : Prop :=
  ∀ (s : State) (n : Nat) (later : List Level), AtBoundary s → s.host.resetReq = false → s.lc = .init →
    s.drdy = .input → s.env.drdyIn = List.replicate n .high ++ .low :: later →
    waitReady (n + 1) s = .next { ended s .ok (.bool true) with
      env := { s.env with drdyIn := later, drawn := s.env.drawn + n + 1 } }

/-! ## Frame decoder -/

/-- Rule R107: sign extension, as bits and as an integer. -/
def Obligations.SignExtension : Prop :=
  ∀ c : Field24,
    (signExtend24 c).extractLsb' 24 8 = (if c.getLsbD 23 then 0xFF#8 else 0x00#8) ∧
    (signExtend24 c).extractLsb' 0 24 = c ∧
    (signExtend24 c).toInt =
      (if c.toNat < 2 ^ 23 then (c.toNat : Int) else (c.toNat : Int) - 2 ^ 24)

/-- Rules R106 and R108: the fields of a decoded frame as numbers of the buffer's bytes. -/
def Obligations.DecodeFields : Prop :=
  ∀ (b : List Byte), 27 ≤ b.length →
    (decodeFn b).status.toNat = b[0]!.toNat * 65536 + b[1]!.toNat * 256 + b[2]!.toNat ∧
    ∀ k : Fin 8, (decodeFn b).ch[k] =
      signExtend24 (BitVec.ofNat 24
        (b[3 + 3 * k.val]!.toNat * 65536 + b[4 + 3 * k.val]!.toNat * 256 + b[5 + 3 * k.val]!.toNat))

/-- Rule R109: CH[k] depends on its own three bytes only, and STATUS on the first three. -/
def Obligations.LanesAreIndependent : Prop :=
  ∀ (b b' : List Byte), 27 ≤ b.length → 27 ≤ b'.length →
    (∀ k : Fin 8, b[3 + 3 * k.val]? = b'[3 + 3 * k.val]? → b[4 + 3 * k.val]? = b'[4 + 3 * k.val]? →
      b[5 + 3 * k.val]? = b'[5 + 3 * k.val]? → (decodeFn b).ch[k] = (decodeFn b').ch[k]) ∧
    (b[0]? = b'[0]? → b[1]? = b'[1]? → b[2]? = b'[2]? → (decodeFn b).status = (decodeFn b').status)

/-- Rule R110: every channel of every decoded buffer is in range. -/
def Obligations.ChannelsInRange : Prop :=
  ∀ (b : List Byte) (k : Fin 8),
    -8388608 ≤ ((decodeFn b).ch[k]).toInt ∧ ((decodeFn b).ch[k]).toInt ≤ 8388607

/-- Rule R111: the round trip, for every value of the range, every channel, whatever the other bytes are. -/
def Obligations.CodeRoundTrip : Prop :=
  ∀ (v : Int) (k : Fin 8) (b : List Byte), -8388608 ≤ v → v ≤ 8388607 → b.length = 27 →
    (b.drop (3 + 3 * k.val)).take 3 = encodeField (BitVec.ofInt 24 v) →
    ((decodeFn b).ch[k]).toInt = v

/-! ## Conversions -/

/-- Rule R115, "rounding to nearest, ties to even": of all finite values of the format, the rounded one is nearest to
n / d units, and at an equal distance from another it has an even significand. -/
def Obligations.RoundsToNearestEven : Prop :=
  ∀ f : Format, f = binary32 ∨ f = binary64 → ∀ n d : Nat, 0 < d → f.roundUnits n d < f.infinity →
    ∀ g < f.infinity,
      |(f.fieldUnits (f.roundUnits n d) : Int) * d - n| ≤ |(f.fieldUnits g : Int) * d - n| ∧
      (|(f.fieldUnits (f.roundUnits n d) : Int) * d - n| = |(f.fieldUnits g : Int) * d - n| →
        g = f.roundUnits n d ∨ f.roundUnits n d % 2 = 0)

/-- Rules R115 and R117, under BINARY32 unless said: the constants; a conversion is the sign of its code over the
magnitude's field; i2f(c), CvtV(c) = f32(i2f(c) * LSB32) and CvtMV(c) = f32(CvtV(c) * 1000.0) are within half an ulp of
the exact value; code 0, code -2^23, negation and the powers of two. Units are 2^-149, and the ulp of n / d units is
2^(shift n d) of them. -/
def Obligations.ConversionProperties : Prop :=
  vref32 = 0x3F99999A ∧ lsb32 = 0x3419999A ∧ thousand32 = 0x447A0000 ∧
  (∀ (arith : CvtArith) (c : Word),
    (cvtVolts arith c).toNat = (if c.toInt < 0 then 2 ^ 31 else 0) + voltsField arith c.toInt.natAbs ∧
    (cvtMillivolts arith c).toNat = (if c.toInt < 0 then 2 ^ 31 else 0) + millivoltsField arith c.toInt.natAbs) ∧
  (∀ m ≤ 2 ^ 31,
    2 * |(binary32.fieldUnits (binary32.roundRat m 1) : Int) - m * 2 ^ 149| ≤
    2 ^ binary32.shift (m * 2 ^ 149) 1) ∧
  (∀ m ≤ 2 ^ 31,
    2 * |(binary32.fieldUnits (voltsField .binary32 m) : Int) * 2 ^ 149 -
      binary32.fieldUnits (binary32.roundRat m 1) * binary32.fieldUnits 0x3419999A| ≤
    2 ^ 149 * 2 ^ binary32.shift
      (binary32.fieldUnits (binary32.roundRat m 1) * binary32.fieldUnits 0x3419999A) (2 ^ 149)) ∧
  cvtVolts .binary32 0#32 = 0x00000000#32 ∧
  cvtVolts .binary32 (BitVec.ofInt 32 (-8388608)) = 0xBF99999A#32 ∧
  (∀ c : Word, c ≠ 0#32 → c ≠ 0x80000000#32 →
    cvtVolts .binary32 (-c) = cvtVolts .binary32 c ^^^ 0x80000000#32) ∧
  (∀ n ≤ 31, binary32.fieldUnits (voltsField .binary32 (2 ^ n)) * 2 ^ 23 =
    binary32.fieldUnits 0x3F99999A * 2 ^ n) ∧
  (∀ m ≤ 2 ^ 31,
    2 * |(binary32.fieldUnits (millivoltsField .binary32 m) : Int) -
      binary32.fieldUnits (voltsField .binary32 m) * 1000| ≤
    2 ^ binary32.shift (binary32.fieldUnits (voltsField .binary32 m) * 1000) 1)

/-- Rule R116: over every Int32 code i2f is exact up to 2^24, and no conversion gives a subnormal or an infinity; under
BINARY32 the volts lie between LSB32 and the value at 2^31. -/
def Obligations.ConversionsStayNormal : Prop :=
  (∀ m ≤ 2 ^ 24, binary32.fieldUnits (binary32.roundRat m 1) = m * 2 ^ 149) ∧
  (∀ (arith : CvtArith) (m : Nat), 1 ≤ m → m ≤ 2 ^ 31 →
    2 ^ 23 ≤ voltsField arith m ∧ voltsField arith m < binary32.infinity ∧
    2 ^ 23 ≤ millivoltsField arith m ∧ millivoltsField arith m < binary32.infinity) ∧
  (∀ arith, voltsField arith 0 = 0 ∧ millivoltsField arith 0 = 0) ∧
  (∀ m, 1 ≤ m → m ≤ 2 ^ 31 →
    0x3419999A ≤ voltsField .binary32 m ∧ voltsField .binary32 m ≤ 0x4399999A)

/-! ## Whole-machine rules -/

/-- The invariant holds right after reset. -/
def Obligations.InvAtReset : Prop := Inv State.reset

/-- Every step keeps the invariant, from every state that has it. -/
def Obligations.StepKeepsInv : Prop :=
  ∀ s t : State, Inv s → step s = .next t → Inv t

/-- Rules R30 and R121: in a state of a run with no fault, a step always answers a next state, and a step inside a
command never takes a fault: no precondition of a micro-operation fails and no item without a value is read. -/
def Obligations.RunsNeverGetStuck : Prop :=
  ∀ s : State, Inv s → s.fault = none →
    ∃ t, step s = .next t ∧ (s.upc ≠ .idle → t.fault = none)

/-- Rules R34, R35 and R36 at a command boundary of a run, and what the pins carry then (rules R24 and R32). -/
def Obligations.BoundaryInvariants : Prop :=
  ∀ s : State, Inv s → AtBoundary s →
    (s.spi.up = true ↔ s.lc = .init) ∧ (s.spi.up = true → s.mclk.run = true) ∧
    (s.cs.dir = .out → s.cs.lvl = some .high ∧ pinView .cs s = .driven .high) ∧
    s.spi.txn = false ∧ s.spi.claim = false ∧
    (s.mclk.run = true → pinView .mclk s = .masterClock)

/-- Rule R20: the lifecycle transitions, their direction and who makes them (a system reset apart). -/
def Obligations.LifecycleTransitions : Prop :=
  ∀ s t : State, Inv s → s.host.resetReq = false → step s = .next t → t.lc ≠ s.lc →
    (s.lc = .uninit ∧ (t.lc = .init ∨ t.lc = .failed) ∧ ∃ k, s.upc = .running .init k) ∨
    (s.lc ≠ .destroyed ∧ t.lc = .destroyed ∧ s.upc = .running .destroy 0)

/-- Rules R77 and R79: no step stops the clock or changes a field of its configuration (a system reset apart). -/
def Obligations.ClockNeverStops : Prop :=
  ∀ s t : State, s.mclk.legal → s.mclk.run = true → s.host.resetReq = false → step s = .next t →
    t.mclk.run = true ∧ t.mclk.freqHz = s.mclk.freqHz ∧ t.mclk.resBits = s.mclk.resBits ∧
    t.mclk.duty = s.mclk.duty ∧ t.mclk.intrEn = s.mclk.intrEn ∧
    (s.mclk.settled = true → t.mclk.settled = true)

/-- Rules R77 and R78: the clock output, once started, has period 4 counter steps and is HIGH in the first two. -/
def Obligations.ClockWaveform : Prop :=
  ∀ s : State, s.mclk.legal → s.mclk.run = true → ∀ n : Nat,
    clockLevel s n = some (if n % 4 < 2 then .high else .low)

/-- Rules R15 and R16: no step changes the parameters the block was constructed with. -/
def Obligations.ConfigurationIsFixed : Prop :=
  ∀ s t : State, step s = .next t → t.cfg = s.cfg

/-- Rules R27 and R48: FRAME_OUT changes only in the last step of a READ that returns OK, all of it at once, to the
frame returned, decoded from the 27 bytes in RX. -/
def Obligations.FrameOutWrittenByReadOnly : Prop :=
  ∀ s t : State, s.host.resetReq = false → step s = .next t → t.frameOut ≠ s.frameOut →
    s.upc = .running .read 6 ∧ ∃ b : List Byte, b.length = 27 ∧ (∀ i < 27, s.rx.read i = b[i]?) ∧
      t.frameOut = { valid := true, status := some (decodeFn b).status, ch := some (decodeFn b).ch } ∧
      t.result = some { code := .ok, payload := .frame (decodeFn b) }

/-- Rules R26 and R49: no instruction but U_XFER writes RX or moves SCLK or MOSI, and none but U_CS_INIT, U_CS_ASSERT
and U_CS_DEASSERT drives chip-select. -/
def Obligations.WhoTouchesBufferAndPins : Prop :=
  ∀ (s t : State) (i : Instr), exec i s = .next t →
    (i ≠ .uXfer → t.rx = s.rx) ∧
    (i ≠ .uCsInit → i ≠ .uCsAssert → i ≠ .uCsDeassert → t.cs = s.cs) ∧
    (i ≠ .uXfer → i ≠ .uCsInit → i ≠ .uCsAssert → i ≠ .uCsDeassert → t.wire = s.wire)

/-- Rule R92: no instruction but U_SAMPLE_DRDY consumes a DRDY sample or depends on one, so nothing after step 0 of a
READ depends on a later level. -/
def Obligations.OnlySampleReadsDrdy : Prop :=
  ∀ (s t : State) (i : Instr), i ≠ .uSampleDrdy → exec i s = .next t →
    t.env.drdyIn = s.env.drdyIn ∧
    ∀ (d : List Level), exec i { s with env := { s.env with drdyIn := d } } =
      .next { t with env := { t.env with drdyIn := d } }

/-- Rule R54: over the steps of a run the frame number of the last successful READ (the ghost of log 11) never
decreases, and it moves only in the last step of a READ, which returns OK, to the number of the frame transferred. -/
def Obligations.FrameNumbersDoNotDecrease : Prop :=
  ∀ s t : State, Inv s → step s = .next t →
    s.env.fseqRead ≤ t.env.fseqRead ∧
    (t.env.fseqRead ≠ s.env.fseqRead →
      s.upc = .running .read 6 ∧ t.upc = .idle ∧ t.env.fseqRead = s.env.fseqXfer ∧
      ∃ f, t.result = some { code := .ok, payload := .frame f })
end

