-- ==== Sys2Proof/Laws/Memory.lean ====
section
/-!
SUPPORT. The receive-buffer space: read after write, writes elsewhere, and the canonical form, which
every operation keeps (spec/20_memory.md rule R39).
-/

namespace Sys2Proof.Machine

@[simp] theorem Memory.read_nil (a : Nat) : Memory.read [] a = none := rfl

theorem Memory.read_cons (b : Nat) (v : Byte) (m : Memory) (a : Nat) :
    Memory.read ((b, v) :: m) a = if a = b then some v else Memory.read m a := rfl

theorem Memory.read_insert_same (m : Memory) (a : Nat) (v : Byte) :
    (m.insert a v).read a = some v := by
  induction m with
  | nil => simp [Memory.insert, Memory.read]
  | cons c m ih =>
    obtain ⟨b, w⟩ := c
    simp only [Memory.insert]
    split_ifs with h1 h2
    · simp [Memory.read]
    · simp [Memory.read]
    · simp [Memory.read, h2, ih]

theorem Memory.read_insert_other (m : Memory) (a b : Nat) (v : Byte) (h : b ≠ a) :
    (m.insert a v).read b = m.read b := by
  induction m with
  | nil => simp [Memory.insert, Memory.read, h]
  | cons c m ih =>
    obtain ⟨d, w⟩ := c
    simp only [Memory.insert]
    split_ifs with h1 h2
    · simp [Memory.read, h]
    · subst h2; simp [Memory.read, h]
    · simp [Memory.read, ih]

theorem Memory.read_insert (m : Memory) (a b : Nat) (v : Byte) :
    (m.insert a v).read b = if b = a then some v else m.read b := by
  split_ifs with h
  · rw [h, read_insert_same]
  · exact read_insert_other m a b v h

theorem Memory.wfFrom_insert (m : Memory) (lo a : Nat) (v : Byte)
    (h : Memory.wfFrom lo m = true) (hlo : lo ≤ a) (ha : a < frameLen) :
    Memory.wfFrom lo (m.insert a v) = true := by
  induction m generalizing lo with
  | nil => simp [Memory.insert, Memory.wfFrom, hlo, ha]
  | cons c m ih =>
    obtain ⟨b, w⟩ := c
    simp only [Memory.wfFrom, Bool.and_eq_true, decide_eq_true_eq] at h
    simp only [Memory.insert]
    split_ifs with h1 h2
    · simp only [Memory.wfFrom, Bool.and_eq_true, decide_eq_true_eq]
      exact ⟨⟨hlo, ha⟩, ⟨h1, h.1.2⟩, h.2⟩
    · subst h2
      simp only [Memory.wfFrom, Bool.and_eq_true, decide_eq_true_eq]
      exact ⟨⟨hlo, ha⟩, h.2⟩
    · simp only [Memory.wfFrom, Bool.and_eq_true, decide_eq_true_eq]
      exact ⟨h.1, ih (b + 1) h.2 (by omega)⟩

/-- The canonical form is kept by a write. -/
theorem memWrite_wf (m m' : Memory) (i : Nat) (v : Byte) (hm : m.wf = true)
    (h : memWrite m i v = some m') : m'.wf = true := by
  unfold memWrite at h
  split_ifs at h with hi
  cases h
  exact Memory.wfFrom_insert m 0 i v hm (Nat.zero_le i) hi

/-- What a write can do: it is inside the buffer, and afterwards the cell holds the value and every other
cell is as before. -/
theorem memWrite_spec (m m' : Memory) (i : Nat) (v : Byte) (h : memWrite m i v = some m') :
    i < frameLen ∧ ∀ a, m'.read a = if a = i then some v else m.read a := by
  unfold memWrite at h
  split_ifs at h with hi
  cases h
  exact ⟨hi, fun a => Memory.read_insert m i a v⟩

/-- Successive writes keep the canonical form. -/
theorem memWriteAll_wf (bs : List Byte) (m m' : Memory) (i : Nat) (hm : m.wf = true)
    (h : memWriteAll m i bs = some m') : m'.wf = true := by
  induction bs generalizing m i with
  | nil => cases h; exact hm
  | cons b bs ih =>
    simp only [memWriteAll, Option.bind_eq_some_iff] at h
    obtain ⟨m1, h1, h2⟩ := h
    exact ih m1 (i + 1) (memWrite_wf m m1 i b hm h1) h2

/-- Successive writes that stay inside the buffer succeed. -/
theorem memWriteAll_isSome (bs : List Byte) (m : Memory) (i : Nat) (h : i + bs.length ≤ frameLen) :
    ∃ m', memWriteAll m i bs = some m' := by
  induction bs generalizing m i with
  | nil => exact ⟨m, rfl⟩
  | cons b bs ih =>
    simp only [List.length_cons] at h
    have hi : i < frameLen := by omega
    obtain ⟨m', hm'⟩ := ih (m.insert i b) (i + 1) (by omega)
    exact ⟨m', by simp [memWriteAll, memWrite, hi, hm']⟩

/-- What successive writes leave in each cell. -/
theorem memWriteAll_read (bs : List Byte) (m m' : Memory) (i : Nat)
    (h : memWriteAll m i bs = some m') (a : Nat) :
    m'.read a = if i ≤ a ∧ a < i + bs.length then bs[a - i]? else m.read a := by
  induction bs generalizing m i with
  | nil =>
    cases h
    simp only [List.length_nil, Nat.add_zero]
    rw [if_neg (by omega)]
  | cons b bs ih =>
    simp only [memWriteAll, Option.bind_eq_some_iff] at h
    obtain ⟨m1, h1, h2⟩ := h
    rw [ih m1 (i + 1) h2, (memWrite_spec m m1 i b h1).2 a]
    simp only [List.length_cons]
    by_cases hai : a = i
    · subst hai
      rw [if_neg (by omega), if_pos rfl, if_pos (by omega)]
      simp
    · by_cases hr : i + 1 ≤ a ∧ a < i + 1 + bs.length
      · rw [if_pos hr, if_pos (by omega)]
        obtain ⟨d, rfl⟩ : ∃ d, a = i + 1 + d := ⟨a - (i + 1), by omega⟩
        have e1 : i + 1 + d - i = d + 1 := by omega
        have e2 : i + 1 + d - (i + 1) = d := by omega
        rw [e1, e2, List.getElem?_cons_succ]
      · rw [if_neg hr, if_neg hai, if_neg (by omega)]

/-- A one-byte read (rule R39). -/
theorem memRead_one (m : Memory) (i : Nat) :
    memRead m i 1 = if i < frameLen then (m.read i).map (fun b => b.toNat) else none := by
  by_cases hi : i < frameLen
  · have h' : i + 1 ≤ frameLen := hi
    simp [memRead, hi, h', List.range_succ]
  · have h' : ¬ (i + 1 ≤ frameLen) := hi
    simp [memRead, hi, h']

/-- Reading cell after cell, inside the buffer: there is a value exactly when every cell holds one. -/
theorem memReadAll_eq_some (m : Memory) (n i : Nat) (bs : List Byte) (hin : i + n ≤ frameLen) :
    memReadAll m i n = some bs ↔ bs.length = n ∧ ∀ j < n, m.read (i + j) = bs[j]? := by
  induction n generalizing i bs with
  | zero =>
    simp only [memReadAll, Option.some.injEq]
    constructor
    · rintro rfl; simp
    · rintro ⟨h, -⟩; exact (List.length_eq_zero_iff.mp h).symm
  | succ n ih =>
    have hi : i < frameLen := by omega
    simp only [memReadAll, memRead_one, hi, if_true, Option.bind_eq_some_iff, Option.map_eq_some_iff]
    constructor
    · rintro ⟨v, ⟨b, hb, rfl⟩, bs', hbs, rfl⟩
      obtain ⟨hl, hr⟩ := (ih (i + 1) bs' (by omega)).mp hbs
      refine ⟨by simp [hl], fun j hj => ?_⟩
      cases j with
      | zero => simpa using hb
      | succ j =>
        have := hr j (by omega)
        rw [List.getElem?_cons_succ, ← this]
        congr 1
        omega
    · rintro ⟨hl, hr⟩
      cases bs with
      | nil => simp at hl
      | cons b bs =>
        refine ⟨b.toNat, ⟨b, by simpa using hr 0 (by omega), rfl⟩, bs, ?_, by simp⟩
        refine (ih (i + 1) bs (by omega)).mpr ⟨by simpa using hl, fun j hj => ?_⟩
        have := hr (j + 1) (by omega)
        rw [List.getElem?_cons_succ] at this
        rw [← this]
        congr 1
        omega

/-- The receive buffer right after construction, with any parameters, lists nothing and is in canonical form. -/
theorem construct_rx_wf (cfg : Config) : (State.construct cfg).rx.wf = true := rfl

theorem reset_rx_wf : State.reset.rx.wf = true := rfl

end Sys2Proof.Machine
end

