-- ==== Sys2Proof/Laws/State.lean ====
section
/-!
SUPPORT. The record algebra of State: what each one-field write leaves in each field.
-/

namespace Sys2Proof.Machine

section
variable (s : State) (v : Lc)
@[simp] theorem State.setLc_cfg : (s.setLc v).cfg = s.cfg := rfl
@[simp] theorem State.setLc_lc : (s.setLc v).lc = v := rfl
@[simp] theorem State.setLc_mclk : (s.setLc v).mclk = s.mclk := rfl
@[simp] theorem State.setLc_spi : (s.setLc v).spi = s.spi := rfl
@[simp] theorem State.setLc_cs : (s.setLc v).cs = s.cs := rfl
@[simp] theorem State.setLc_drdy : (s.setLc v).drdy = s.drdy := rfl
@[simp] theorem State.setLc_rx : (s.setLc v).rx = s.rx := rfl
@[simp] theorem State.setLc_frameOut : (s.setLc v).frameOut = s.frameOut := rfl
@[simp] theorem State.setLc_result : (s.setLc v).result = s.result := rfl
@[simp] theorem State.setLc_fault : (s.setLc v).fault = s.fault := rfl
@[simp] theorem State.setLc_upc : (s.setLc v).upc = s.upc := rfl
@[simp] theorem State.setLc_tmp : (s.setLc v).tmp = s.tmp := rfl
@[simp] theorem State.setLc_hung : (s.setLc v).hung = s.hung := rfl
@[simp] theorem State.setLc_host : (s.setLc v).host = s.host := rfl
@[simp] theorem State.setLc_env : (s.setLc v).env = s.env := rfl
@[simp] theorem State.setLc_wire : (s.setLc v).wire = s.wire := rfl
end

section
variable (s : State) (v : Mclk)
@[simp] theorem State.setMclk_cfg : (s.setMclk v).cfg = s.cfg := rfl
@[simp] theorem State.setMclk_lc : (s.setMclk v).lc = s.lc := rfl
@[simp] theorem State.setMclk_mclk : (s.setMclk v).mclk = v := rfl
@[simp] theorem State.setMclk_spi : (s.setMclk v).spi = s.spi := rfl
@[simp] theorem State.setMclk_cs : (s.setMclk v).cs = s.cs := rfl
@[simp] theorem State.setMclk_drdy : (s.setMclk v).drdy = s.drdy := rfl
@[simp] theorem State.setMclk_rx : (s.setMclk v).rx = s.rx := rfl
@[simp] theorem State.setMclk_frameOut : (s.setMclk v).frameOut = s.frameOut := rfl
@[simp] theorem State.setMclk_result : (s.setMclk v).result = s.result := rfl
@[simp] theorem State.setMclk_fault : (s.setMclk v).fault = s.fault := rfl
@[simp] theorem State.setMclk_upc : (s.setMclk v).upc = s.upc := rfl
@[simp] theorem State.setMclk_tmp : (s.setMclk v).tmp = s.tmp := rfl
@[simp] theorem State.setMclk_hung : (s.setMclk v).hung = s.hung := rfl
@[simp] theorem State.setMclk_host : (s.setMclk v).host = s.host := rfl
@[simp] theorem State.setMclk_env : (s.setMclk v).env = s.env := rfl
@[simp] theorem State.setMclk_wire : (s.setMclk v).wire = s.wire := rfl
end

section
variable (s : State) (v : Spi)
@[simp] theorem State.setSpi_cfg : (s.setSpi v).cfg = s.cfg := rfl
@[simp] theorem State.setSpi_lc : (s.setSpi v).lc = s.lc := rfl
@[simp] theorem State.setSpi_mclk : (s.setSpi v).mclk = s.mclk := rfl
@[simp] theorem State.setSpi_spi : (s.setSpi v).spi = v := rfl
@[simp] theorem State.setSpi_cs : (s.setSpi v).cs = s.cs := rfl
@[simp] theorem State.setSpi_drdy : (s.setSpi v).drdy = s.drdy := rfl
@[simp] theorem State.setSpi_rx : (s.setSpi v).rx = s.rx := rfl
@[simp] theorem State.setSpi_frameOut : (s.setSpi v).frameOut = s.frameOut := rfl
@[simp] theorem State.setSpi_result : (s.setSpi v).result = s.result := rfl
@[simp] theorem State.setSpi_fault : (s.setSpi v).fault = s.fault := rfl
@[simp] theorem State.setSpi_upc : (s.setSpi v).upc = s.upc := rfl
@[simp] theorem State.setSpi_tmp : (s.setSpi v).tmp = s.tmp := rfl
@[simp] theorem State.setSpi_hung : (s.setSpi v).hung = s.hung := rfl
@[simp] theorem State.setSpi_host : (s.setSpi v).host = s.host := rfl
@[simp] theorem State.setSpi_env : (s.setSpi v).env = s.env := rfl
@[simp] theorem State.setSpi_wire : (s.setSpi v).wire = s.wire := rfl
end

section
variable (s : State) (v : Cs)
@[simp] theorem State.setCs_cfg : (s.setCs v).cfg = s.cfg := rfl
@[simp] theorem State.setCs_lc : (s.setCs v).lc = s.lc := rfl
@[simp] theorem State.setCs_mclk : (s.setCs v).mclk = s.mclk := rfl
@[simp] theorem State.setCs_spi : (s.setCs v).spi = s.spi := rfl
@[simp] theorem State.setCs_cs : (s.setCs v).cs = v := rfl
@[simp] theorem State.setCs_drdy : (s.setCs v).drdy = s.drdy := rfl
@[simp] theorem State.setCs_rx : (s.setCs v).rx = s.rx := rfl
@[simp] theorem State.setCs_frameOut : (s.setCs v).frameOut = s.frameOut := rfl
@[simp] theorem State.setCs_result : (s.setCs v).result = s.result := rfl
@[simp] theorem State.setCs_fault : (s.setCs v).fault = s.fault := rfl
@[simp] theorem State.setCs_upc : (s.setCs v).upc = s.upc := rfl
@[simp] theorem State.setCs_tmp : (s.setCs v).tmp = s.tmp := rfl
@[simp] theorem State.setCs_hung : (s.setCs v).hung = s.hung := rfl
@[simp] theorem State.setCs_host : (s.setCs v).host = s.host := rfl
@[simp] theorem State.setCs_env : (s.setCs v).env = s.env := rfl
@[simp] theorem State.setCs_wire : (s.setCs v).wire = s.wire := rfl
end

section
variable (s : State) (v : DrdyDir)
@[simp] theorem State.setDrdy_cfg : (s.setDrdy v).cfg = s.cfg := rfl
@[simp] theorem State.setDrdy_lc : (s.setDrdy v).lc = s.lc := rfl
@[simp] theorem State.setDrdy_mclk : (s.setDrdy v).mclk = s.mclk := rfl
@[simp] theorem State.setDrdy_spi : (s.setDrdy v).spi = s.spi := rfl
@[simp] theorem State.setDrdy_cs : (s.setDrdy v).cs = s.cs := rfl
@[simp] theorem State.setDrdy_drdy : (s.setDrdy v).drdy = v := rfl
@[simp] theorem State.setDrdy_rx : (s.setDrdy v).rx = s.rx := rfl
@[simp] theorem State.setDrdy_frameOut : (s.setDrdy v).frameOut = s.frameOut := rfl
@[simp] theorem State.setDrdy_result : (s.setDrdy v).result = s.result := rfl
@[simp] theorem State.setDrdy_fault : (s.setDrdy v).fault = s.fault := rfl
@[simp] theorem State.setDrdy_upc : (s.setDrdy v).upc = s.upc := rfl
@[simp] theorem State.setDrdy_tmp : (s.setDrdy v).tmp = s.tmp := rfl
@[simp] theorem State.setDrdy_hung : (s.setDrdy v).hung = s.hung := rfl
@[simp] theorem State.setDrdy_host : (s.setDrdy v).host = s.host := rfl
@[simp] theorem State.setDrdy_env : (s.setDrdy v).env = s.env := rfl
@[simp] theorem State.setDrdy_wire : (s.setDrdy v).wire = s.wire := rfl
end

section
variable (s : State) (v : Memory)
@[simp] theorem State.setRx_cfg : (s.setRx v).cfg = s.cfg := rfl
@[simp] theorem State.setRx_lc : (s.setRx v).lc = s.lc := rfl
@[simp] theorem State.setRx_mclk : (s.setRx v).mclk = s.mclk := rfl
@[simp] theorem State.setRx_spi : (s.setRx v).spi = s.spi := rfl
@[simp] theorem State.setRx_cs : (s.setRx v).cs = s.cs := rfl
@[simp] theorem State.setRx_drdy : (s.setRx v).drdy = s.drdy := rfl
@[simp] theorem State.setRx_rx : (s.setRx v).rx = v := rfl
@[simp] theorem State.setRx_frameOut : (s.setRx v).frameOut = s.frameOut := rfl
@[simp] theorem State.setRx_result : (s.setRx v).result = s.result := rfl
@[simp] theorem State.setRx_fault : (s.setRx v).fault = s.fault := rfl
@[simp] theorem State.setRx_upc : (s.setRx v).upc = s.upc := rfl
@[simp] theorem State.setRx_tmp : (s.setRx v).tmp = s.tmp := rfl
@[simp] theorem State.setRx_hung : (s.setRx v).hung = s.hung := rfl
@[simp] theorem State.setRx_host : (s.setRx v).host = s.host := rfl
@[simp] theorem State.setRx_env : (s.setRx v).env = s.env := rfl
@[simp] theorem State.setRx_wire : (s.setRx v).wire = s.wire := rfl
end

section
variable (s : State) (v : FrameOut)
@[simp] theorem State.setFrameOut_cfg : (s.setFrameOut v).cfg = s.cfg := rfl
@[simp] theorem State.setFrameOut_lc : (s.setFrameOut v).lc = s.lc := rfl
@[simp] theorem State.setFrameOut_mclk : (s.setFrameOut v).mclk = s.mclk := rfl
@[simp] theorem State.setFrameOut_spi : (s.setFrameOut v).spi = s.spi := rfl
@[simp] theorem State.setFrameOut_cs : (s.setFrameOut v).cs = s.cs := rfl
@[simp] theorem State.setFrameOut_drdy : (s.setFrameOut v).drdy = s.drdy := rfl
@[simp] theorem State.setFrameOut_rx : (s.setFrameOut v).rx = s.rx := rfl
@[simp] theorem State.setFrameOut_frameOut : (s.setFrameOut v).frameOut = v := rfl
@[simp] theorem State.setFrameOut_result : (s.setFrameOut v).result = s.result := rfl
@[simp] theorem State.setFrameOut_fault : (s.setFrameOut v).fault = s.fault := rfl
@[simp] theorem State.setFrameOut_upc : (s.setFrameOut v).upc = s.upc := rfl
@[simp] theorem State.setFrameOut_tmp : (s.setFrameOut v).tmp = s.tmp := rfl
@[simp] theorem State.setFrameOut_hung : (s.setFrameOut v).hung = s.hung := rfl
@[simp] theorem State.setFrameOut_host : (s.setFrameOut v).host = s.host := rfl
@[simp] theorem State.setFrameOut_env : (s.setFrameOut v).env = s.env := rfl
@[simp] theorem State.setFrameOut_wire : (s.setFrameOut v).wire = s.wire := rfl
end

section
variable (s : State) (v : Option Response)
@[simp] theorem State.setResult_cfg : (s.setResult v).cfg = s.cfg := rfl
@[simp] theorem State.setResult_lc : (s.setResult v).lc = s.lc := rfl
@[simp] theorem State.setResult_mclk : (s.setResult v).mclk = s.mclk := rfl
@[simp] theorem State.setResult_spi : (s.setResult v).spi = s.spi := rfl
@[simp] theorem State.setResult_cs : (s.setResult v).cs = s.cs := rfl
@[simp] theorem State.setResult_drdy : (s.setResult v).drdy = s.drdy := rfl
@[simp] theorem State.setResult_rx : (s.setResult v).rx = s.rx := rfl
@[simp] theorem State.setResult_frameOut : (s.setResult v).frameOut = s.frameOut := rfl
@[simp] theorem State.setResult_result : (s.setResult v).result = v := rfl
@[simp] theorem State.setResult_fault : (s.setResult v).fault = s.fault := rfl
@[simp] theorem State.setResult_upc : (s.setResult v).upc = s.upc := rfl
@[simp] theorem State.setResult_tmp : (s.setResult v).tmp = s.tmp := rfl
@[simp] theorem State.setResult_hung : (s.setResult v).hung = s.hung := rfl
@[simp] theorem State.setResult_host : (s.setResult v).host = s.host := rfl
@[simp] theorem State.setResult_env : (s.setResult v).env = s.env := rfl
@[simp] theorem State.setResult_wire : (s.setResult v).wire = s.wire := rfl
end

section
variable (s : State) (v : Option FaultRecord)
@[simp] theorem State.setFault_cfg : (s.setFault v).cfg = s.cfg := rfl
@[simp] theorem State.setFault_lc : (s.setFault v).lc = s.lc := rfl
@[simp] theorem State.setFault_mclk : (s.setFault v).mclk = s.mclk := rfl
@[simp] theorem State.setFault_spi : (s.setFault v).spi = s.spi := rfl
@[simp] theorem State.setFault_cs : (s.setFault v).cs = s.cs := rfl
@[simp] theorem State.setFault_drdy : (s.setFault v).drdy = s.drdy := rfl
@[simp] theorem State.setFault_rx : (s.setFault v).rx = s.rx := rfl
@[simp] theorem State.setFault_frameOut : (s.setFault v).frameOut = s.frameOut := rfl
@[simp] theorem State.setFault_result : (s.setFault v).result = s.result := rfl
@[simp] theorem State.setFault_fault : (s.setFault v).fault = v := rfl
@[simp] theorem State.setFault_upc : (s.setFault v).upc = s.upc := rfl
@[simp] theorem State.setFault_tmp : (s.setFault v).tmp = s.tmp := rfl
@[simp] theorem State.setFault_hung : (s.setFault v).hung = s.hung := rfl
@[simp] theorem State.setFault_host : (s.setFault v).host = s.host := rfl
@[simp] theorem State.setFault_env : (s.setFault v).env = s.env := rfl
@[simp] theorem State.setFault_wire : (s.setFault v).wire = s.wire := rfl
end

section
variable (s : State) (v : Upc)
@[simp] theorem State.setUpc_cfg : (s.setUpc v).cfg = s.cfg := rfl
@[simp] theorem State.setUpc_lc : (s.setUpc v).lc = s.lc := rfl
@[simp] theorem State.setUpc_mclk : (s.setUpc v).mclk = s.mclk := rfl
@[simp] theorem State.setUpc_spi : (s.setUpc v).spi = s.spi := rfl
@[simp] theorem State.setUpc_cs : (s.setUpc v).cs = s.cs := rfl
@[simp] theorem State.setUpc_drdy : (s.setUpc v).drdy = s.drdy := rfl
@[simp] theorem State.setUpc_rx : (s.setUpc v).rx = s.rx := rfl
@[simp] theorem State.setUpc_frameOut : (s.setUpc v).frameOut = s.frameOut := rfl
@[simp] theorem State.setUpc_result : (s.setUpc v).result = s.result := rfl
@[simp] theorem State.setUpc_fault : (s.setUpc v).fault = s.fault := rfl
@[simp] theorem State.setUpc_upc : (s.setUpc v).upc = v := rfl
@[simp] theorem State.setUpc_tmp : (s.setUpc v).tmp = s.tmp := rfl
@[simp] theorem State.setUpc_hung : (s.setUpc v).hung = s.hung := rfl
@[simp] theorem State.setUpc_host : (s.setUpc v).host = s.host := rfl
@[simp] theorem State.setUpc_env : (s.setUpc v).env = s.env := rfl
@[simp] theorem State.setUpc_wire : (s.setUpc v).wire = s.wire := rfl
end

section
variable (s : State) (v : Option Frame)
@[simp] theorem State.setTmp_cfg : (s.setTmp v).cfg = s.cfg := rfl
@[simp] theorem State.setTmp_lc : (s.setTmp v).lc = s.lc := rfl
@[simp] theorem State.setTmp_mclk : (s.setTmp v).mclk = s.mclk := rfl
@[simp] theorem State.setTmp_spi : (s.setTmp v).spi = s.spi := rfl
@[simp] theorem State.setTmp_cs : (s.setTmp v).cs = s.cs := rfl
@[simp] theorem State.setTmp_drdy : (s.setTmp v).drdy = s.drdy := rfl
@[simp] theorem State.setTmp_rx : (s.setTmp v).rx = s.rx := rfl
@[simp] theorem State.setTmp_frameOut : (s.setTmp v).frameOut = s.frameOut := rfl
@[simp] theorem State.setTmp_result : (s.setTmp v).result = s.result := rfl
@[simp] theorem State.setTmp_fault : (s.setTmp v).fault = s.fault := rfl
@[simp] theorem State.setTmp_upc : (s.setTmp v).upc = s.upc := rfl
@[simp] theorem State.setTmp_tmp : (s.setTmp v).tmp = v := rfl
@[simp] theorem State.setTmp_hung : (s.setTmp v).hung = s.hung := rfl
@[simp] theorem State.setTmp_host : (s.setTmp v).host = s.host := rfl
@[simp] theorem State.setTmp_env : (s.setTmp v).env = s.env := rfl
@[simp] theorem State.setTmp_wire : (s.setTmp v).wire = s.wire := rfl
end

section
variable (s : State) (v : Bool)
@[simp] theorem State.setHung_cfg : (s.setHung v).cfg = s.cfg := rfl
@[simp] theorem State.setHung_lc : (s.setHung v).lc = s.lc := rfl
@[simp] theorem State.setHung_mclk : (s.setHung v).mclk = s.mclk := rfl
@[simp] theorem State.setHung_spi : (s.setHung v).spi = s.spi := rfl
@[simp] theorem State.setHung_cs : (s.setHung v).cs = s.cs := rfl
@[simp] theorem State.setHung_drdy : (s.setHung v).drdy = s.drdy := rfl
@[simp] theorem State.setHung_rx : (s.setHung v).rx = s.rx := rfl
@[simp] theorem State.setHung_frameOut : (s.setHung v).frameOut = s.frameOut := rfl
@[simp] theorem State.setHung_result : (s.setHung v).result = s.result := rfl
@[simp] theorem State.setHung_fault : (s.setHung v).fault = s.fault := rfl
@[simp] theorem State.setHung_upc : (s.setHung v).upc = s.upc := rfl
@[simp] theorem State.setHung_tmp : (s.setHung v).tmp = s.tmp := rfl
@[simp] theorem State.setHung_hung : (s.setHung v).hung = v := rfl
@[simp] theorem State.setHung_host : (s.setHung v).host = s.host := rfl
@[simp] theorem State.setHung_env : (s.setHung v).env = s.env := rfl
@[simp] theorem State.setHung_wire : (s.setHung v).wire = s.wire := rfl
end

section
variable (s : State) (v : HostPort)
@[simp] theorem State.setHost_cfg : (s.setHost v).cfg = s.cfg := rfl
@[simp] theorem State.setHost_lc : (s.setHost v).lc = s.lc := rfl
@[simp] theorem State.setHost_mclk : (s.setHost v).mclk = s.mclk := rfl
@[simp] theorem State.setHost_spi : (s.setHost v).spi = s.spi := rfl
@[simp] theorem State.setHost_cs : (s.setHost v).cs = s.cs := rfl
@[simp] theorem State.setHost_drdy : (s.setHost v).drdy = s.drdy := rfl
@[simp] theorem State.setHost_rx : (s.setHost v).rx = s.rx := rfl
@[simp] theorem State.setHost_frameOut : (s.setHost v).frameOut = s.frameOut := rfl
@[simp] theorem State.setHost_result : (s.setHost v).result = s.result := rfl
@[simp] theorem State.setHost_fault : (s.setHost v).fault = s.fault := rfl
@[simp] theorem State.setHost_upc : (s.setHost v).upc = s.upc := rfl
@[simp] theorem State.setHost_tmp : (s.setHost v).tmp = s.tmp := rfl
@[simp] theorem State.setHost_hung : (s.setHost v).hung = s.hung := rfl
@[simp] theorem State.setHost_host : (s.setHost v).host = v := rfl
@[simp] theorem State.setHost_env : (s.setHost v).env = s.env := rfl
@[simp] theorem State.setHost_wire : (s.setHost v).wire = s.wire := rfl
end

section
variable (s : State) (v : Env)
@[simp] theorem State.setEnv_cfg : (s.setEnv v).cfg = s.cfg := rfl
@[simp] theorem State.setEnv_lc : (s.setEnv v).lc = s.lc := rfl
@[simp] theorem State.setEnv_mclk : (s.setEnv v).mclk = s.mclk := rfl
@[simp] theorem State.setEnv_spi : (s.setEnv v).spi = s.spi := rfl
@[simp] theorem State.setEnv_cs : (s.setEnv v).cs = s.cs := rfl
@[simp] theorem State.setEnv_drdy : (s.setEnv v).drdy = s.drdy := rfl
@[simp] theorem State.setEnv_rx : (s.setEnv v).rx = s.rx := rfl
@[simp] theorem State.setEnv_frameOut : (s.setEnv v).frameOut = s.frameOut := rfl
@[simp] theorem State.setEnv_result : (s.setEnv v).result = s.result := rfl
@[simp] theorem State.setEnv_fault : (s.setEnv v).fault = s.fault := rfl
@[simp] theorem State.setEnv_upc : (s.setEnv v).upc = s.upc := rfl
@[simp] theorem State.setEnv_tmp : (s.setEnv v).tmp = s.tmp := rfl
@[simp] theorem State.setEnv_hung : (s.setEnv v).hung = s.hung := rfl
@[simp] theorem State.setEnv_host : (s.setEnv v).host = s.host := rfl
@[simp] theorem State.setEnv_env : (s.setEnv v).env = v := rfl
@[simp] theorem State.setEnv_wire : (s.setEnv v).wire = s.wire := rfl
end

section
variable (s : State) (v : List WireEvent)
@[simp] theorem State.setWire_cfg : (s.setWire v).cfg = s.cfg := rfl
@[simp] theorem State.setWire_lc : (s.setWire v).lc = s.lc := rfl
@[simp] theorem State.setWire_mclk : (s.setWire v).mclk = s.mclk := rfl
@[simp] theorem State.setWire_spi : (s.setWire v).spi = s.spi := rfl
@[simp] theorem State.setWire_cs : (s.setWire v).cs = s.cs := rfl
@[simp] theorem State.setWire_drdy : (s.setWire v).drdy = s.drdy := rfl
@[simp] theorem State.setWire_rx : (s.setWire v).rx = s.rx := rfl
@[simp] theorem State.setWire_frameOut : (s.setWire v).frameOut = s.frameOut := rfl
@[simp] theorem State.setWire_result : (s.setWire v).result = s.result := rfl
@[simp] theorem State.setWire_fault : (s.setWire v).fault = s.fault := rfl
@[simp] theorem State.setWire_upc : (s.setWire v).upc = s.upc := rfl
@[simp] theorem State.setWire_tmp : (s.setWire v).tmp = s.tmp := rfl
@[simp] theorem State.setWire_hung : (s.setWire v).hung = s.hung := rfl
@[simp] theorem State.setWire_host : (s.setWire v).host = s.host := rfl
@[simp] theorem State.setWire_env : (s.setWire v).env = s.env := rfl
@[simp] theorem State.setWire_wire : (s.setWire v).wire = v := rfl
end

/-! ## Ending a command and driving chip-select -/

@[simp] theorem State.endWith_cfg (s : State) (r : Response) : (s.endWith r).cfg = s.cfg := rfl
@[simp] theorem State.endWith_lc (s : State) (r : Response) : (s.endWith r).lc = s.lc := rfl
@[simp] theorem State.endWith_mclk (s : State) (r : Response) : (s.endWith r).mclk = s.mclk := rfl
@[simp] theorem State.endWith_spi (s : State) (r : Response) : (s.endWith r).spi = s.spi := rfl
@[simp] theorem State.endWith_cs (s : State) (r : Response) : (s.endWith r).cs = s.cs := rfl
@[simp] theorem State.endWith_drdy (s : State) (r : Response) : (s.endWith r).drdy = s.drdy := rfl
@[simp] theorem State.endWith_rx (s : State) (r : Response) : (s.endWith r).rx = s.rx := rfl
@[simp] theorem State.endWith_frameOut (s : State) (r : Response) : (s.endWith r).frameOut = s.frameOut := rfl
@[simp] theorem State.endWith_result (s : State) (r : Response) : (s.endWith r).result = some r := rfl
@[simp] theorem State.endWith_fault (s : State) (r : Response) : (s.endWith r).fault = s.fault := rfl
@[simp] theorem State.endWith_upc (s : State) (r : Response) : (s.endWith r).upc = .idle := rfl
@[simp] theorem State.endWith_tmp (s : State) (r : Response) : (s.endWith r).tmp = s.tmp := rfl
@[simp] theorem State.endWith_hung (s : State) (r : Response) : (s.endWith r).hung = s.hung := rfl
@[simp] theorem State.endWith_host (s : State) (r : Response) : (s.endWith r).host = s.host := rfl
@[simp] theorem State.endWith_env (s : State) (r : Response) : (s.endWith r).env = s.env := rfl
@[simp] theorem State.endWith_wire (s : State) (r : Response) : (s.endWith r).wire = s.wire := rfl

@[simp] theorem State.driveCs_cfg (s : State) (l : Level) : (s.driveCs l).cfg = s.cfg := rfl
@[simp] theorem State.driveCs_lc (s : State) (l : Level) : (s.driveCs l).lc = s.lc := rfl
@[simp] theorem State.driveCs_mclk (s : State) (l : Level) : (s.driveCs l).mclk = s.mclk := rfl
@[simp] theorem State.driveCs_spi (s : State) (l : Level) : (s.driveCs l).spi = s.spi := rfl
@[simp] theorem State.driveCs_cs (s : State) (l : Level) : (s.driveCs l).cs = { s.cs with lvl := some l } := rfl
@[simp] theorem State.driveCs_drdy (s : State) (l : Level) : (s.driveCs l).drdy = s.drdy := rfl
@[simp] theorem State.driveCs_rx (s : State) (l : Level) : (s.driveCs l).rx = s.rx := rfl
@[simp] theorem State.driveCs_frameOut (s : State) (l : Level) : (s.driveCs l).frameOut = s.frameOut := rfl
@[simp] theorem State.driveCs_result (s : State) (l : Level) : (s.driveCs l).result = s.result := rfl
@[simp] theorem State.driveCs_fault (s : State) (l : Level) : (s.driveCs l).fault = s.fault := rfl
@[simp] theorem State.driveCs_upc (s : State) (l : Level) : (s.driveCs l).upc = s.upc := rfl
@[simp] theorem State.driveCs_tmp (s : State) (l : Level) : (s.driveCs l).tmp = s.tmp := rfl
@[simp] theorem State.driveCs_hung (s : State) (l : Level) : (s.driveCs l).hung = s.hung := rfl
@[simp] theorem State.driveCs_host (s : State) (l : Level) : (s.driveCs l).host = s.host := rfl
@[simp] theorem State.driveCs_env (s : State) (l : Level) : (s.driveCs l).env = s.env := rfl
@[simp] theorem State.driveCs_wire (s : State) (l : Level) : (s.driveCs l).wire = s.wire ++ [.cs l] := rfl

end Sys2Proof.Machine
end

