-- ==== Sys2Proof/Laws/Ops.lean ====
section
/-!
SUPPORT. What each shared operation of the sequencer can do, said once: the meanings and the step are
read through these lemmas.
-/

namespace Sys2Proof.Machine

/-- A fault is a next state that differs in FAULT alone (rule R130). -/
theorem raiseFault_eq (code : FaultCode) (opc : Byte) (s : State) :
    raiseFault code opc s = .next (s.setFault (some { code := code, opc := opc, upc := s.upc })) := rfl

/-- A host command at a command boundary, where the lifecycle admits it. -/
theorem hostCommand_admitted {c : Command} {s : State} {body : State → Out} (hf : s.fault = none)
    (hu : s.upc = .idle) (ha : admitted c s.lc = true) :
    hostCommand c s body = body (s.setUpc (.running c 0)) := by
  simp [hostCommand, hf, hu, ha]

/-- A host command at a command boundary, where the lifecycle does not admit it. -/
theorem hostCommand_not_admitted {c : Command} {s : State} {body : State → Out} (hf : s.fault = none)
    (hu : s.upc = .idle) (ha : admitted c s.lc = false) :
    hostCommand c s body = raiseFault .wrongState c.opcode s := by
  simp [hostCommand, hf, hu, ha]

/-- What a host command can do when it answers a next state. -/
theorem hostCommand_next {c : Command} {s t : State} {body : State → Out}
    (h : hostCommand c s body = .next t) :
    s.fault = none ∧ s.upc = .idle ∧
      (admitted c s.lc = true ∧ body (s.setUpc (.running c 0)) = .next t ∨
       admitted c s.lc = false ∧ raiseFault .wrongState c.opcode s = .next t) := by
  unfold hostCommand at h
  split at h
  · cases h
  · rename_i hf
    split at h
    · cases h
    · rename_i hu
      cases ha : admitted c s.lc
      · exact ⟨hf, hu, .inr ⟨rfl, by simpa [ha] using h⟩⟩
      · exact ⟨hf, hu, .inl ⟨rfl, by simpa [ha] using h⟩⟩

/-- A micro-operation at its own step of a sequence. -/
theorem microOp_at {i : Instr} {s : State} {body : Command → Fin 8 → Out} {c : Command} {k : Fin 8}
    (hf : s.fault = none) (hu : s.upc = .running c k) (hi : stepAt c k = some i) :
    microOp i s body = body c k := by
  simp [microOp, hf, hu, hi]

/-- What a micro-operation can do when it answers a next state. -/
theorem microOp_next {i : Instr} {s t : State} {body : Command → Fin 8 → Out}
    (h : microOp i s body = .next t) :
    s.fault = none ∧
      (s.upc = .idle ∧ raiseFault .illegalCmd (opcode i) s = .next t ∨
       ∃ c k, s.upc = .running c k ∧ stepAt c k = some i ∧ body c k = .next t) := by
  unfold microOp at h
  split at h
  · cases h
  · rename_i hf
    split at h
    · rename_i hu
      exact ⟨hf, .inl ⟨hu, h⟩⟩
    · rename_i c k hu
      split_ifs at h with hi
      exact ⟨hf, .inr ⟨c, k, hu, hi, h⟩⟩

/-- A precondition either holds and the body decides, or F_WRONG_STATE is taken. -/
theorem require_next {p : Bool} {c : Command} {s t : State} {body : Out}
    (h : require p c s body = .next t) :
    p = true ∧ body = .next t ∨ p = false ∧ raiseFault .wrongState c.opcode s = .next t := by
  cases p
  · exact .inr ⟨rfl, h⟩
  · exact .inl ⟨rfl, h⟩

@[simp] theorem require_true (c : Command) (s : State) (body : Out) : require true c s body = body := rfl

/-- Moving on either advances UPC inside the sequence or completes the command. -/
theorem moveOn_next {c : Command} {k : Fin 8} {s t : State} (h : moveOn c k s = .next t) :
    k.val + 1 < c.sequence.length ∧ t = s.setUpc (.running c (k + 1)) ∨
    c.sequence.length ≤ k.val + 1 ∧ complete c s = .next t := by
  unfold moveOn at h
  split_ifs at h with hk
  · exact .inl ⟨hk, by cases h; rfl⟩
  · exact .inr ⟨by omega, h⟩

/-- Moving on from a step that is not the last. -/
theorem moveOn_mid {c : Command} {k : Fin 8} {s : State} (h : k.val + 1 < c.sequence.length) :
    moveOn c k s = .next (s.setUpc (.running c (k + 1))) := by
  simp [moveOn, h]

/-- Moving on from the last step. -/
theorem moveOn_last {c : Command} {k : Fin 8} {s : State} (h : c.sequence.length ≤ k.val + 1) :
    moveOn c k s = complete c s := by
  simp [moveOn, Nat.not_lt.mpr h]

/-- An error result ends the command; INIT also fails (rule R122). -/
theorem returnError_eq (c : Command) (code : ResultCode) (s : State) :
    returnError c code s =
      .next (if c = .init then (s.endWith { code := code, payload := .none }).setLc .failed
             else s.endWith { code := code, payload := .none }) := rfl

/-- What the end of a command can do when it answers a next state. -/
theorem complete_next {c : Command} {s t : State} (h : complete c s = .next t) :
    (c = .init ∧ t = (s.setLc .init).endWith { code := .ok, payload := .none }) ∨
    (c = .destroy ∧ t = (s.setLc .destroyed).endWith { code := .ok, payload := .none }) ∨
    (c = .read ∧ ∃ f, s.tmp = some f ∧
      t = ((s.setFrameOut { valid := true, status := some f.status, ch := some f.ch }).setEnv
            { s.env with fseqRead := s.env.fseqXfer }).endWith { code := .ok, payload := .frame f }) ∨
    (raiseFault .wrongState c.opcode s = .next t ∧ c ≠ .init ∧ c ≠ .destroy ∧
      (c = .read → s.tmp = none)) := by
  cases c with
  | init => exact .inl ⟨rfl, by cases h; rfl⟩
  | destroy => exact .inr (.inl ⟨rfl, by cases h; rfl⟩)
  | read =>
    simp only [complete] at h
    split at h
    · rename_i f hf
      exact .inr (.inr (.inl ⟨rfl, f, hf, by cases h; rfl⟩))
    · rename_i hf
      exact .inr (.inr (.inr ⟨h, by simp, by simp, fun _ => hf⟩))
  | ready => exact .inr (.inr (.inr ⟨h, by simp, by simp, by simp⟩))
  | decode => exact .inr (.inr (.inr ⟨h, by simp, by simp, by simp⟩))
  | cvtV => exact .inr (.inr (.inr ⟨h, by simp, by simp, by simp⟩))
  | cvtMv => exact .inr (.inr (.inr ⟨h, by simp, by simp, by simp⟩))

/-! ## The step -/

/-- A pending system reset comes first. -/
theorem step_reset {s : State} (h : s.host.resetReq = true) : step s = .next s.systemReset := by
  simp [step, stepOnce, h]

/-- The sequencer's step. -/
theorem step_running {s : State} {c : Command} {k : Fin 8} {i : Instr} (hr : s.host.resetReq = false)
    (hf : s.fault = none) (hu : s.upc = .running c k) (hi : stepAt c k = some i) :
    step s = exec i s := by
  simp [step, stepOnce, stepSequence, hr, hf, hu, hi]

/-- The host's next command. -/
theorem step_idle {s : State} (hr : s.host.resetReq = false) (hf : s.fault = none) (hu : s.upc = .idle) :
    step s = stepHost s := by
  simp [step, stepOnce, hr, hf, hu]

/-- Where a step that answers a next state comes from. -/
theorem step_next {s t : State} (h : step s = .next t) :
    (s.host.resetReq = true ∧ t = s.systemReset) ∨
    (s.host.resetReq = false ∧ s.fault = none ∧
      ((∃ c k i, s.upc = .running c k ∧ stepAt c k = some i ∧ exec i s = .next t) ∨
       (s.upc = .idle ∧ stepHost s = .next t))) := by
  unfold step stepOnce at h
  cases hr : s.host.resetReq
  · simp only [hr, Bool.false_eq_true, if_false] at h
    split at h
    · cases h
    · rename_i hf
      split at h
      · rename_i c k hu
        refine .inr ⟨rfl, hf, .inl ?_⟩
        unfold stepSequence at h
        split at h
        · rename_i i hi
          exact ⟨c, k, i, hu, hi, h⟩
        · cases h
      · rename_i hu
        exact .inr ⟨rfl, hf, .inr ⟨hu, h⟩⟩
  · simp only [hr, if_true] at h
    exact .inl ⟨rfl, by cases h; rfl⟩

/-- What the host's side of a step can do when it answers a next state. -/
theorem stepHost_next {s t : State} (h : stepHost s = .next t) :
    (∃ i rest, decode s.host.cmdIn = .instr i rest ∧
      exec i (s.setHost { s.host with cmdIn := rest }) = .next t) ∨
    (∃ opc rest, decode s.host.cmdIn = .illegal opc rest ∧
      raiseFault .illegalCmd opc (s.setHost { s.host with cmdIn := rest }) = .next t) ∨
    (decode s.host.cmdIn = .incomplete ∧ t = s) := by
  unfold stepHost at h
  split at h
  · rename_i i rest hd
    exact .inl ⟨i, rest, hd, h⟩
  · rename_i opc rest hd
    exact .inr (.inl ⟨opc, rest, hd, h⟩)
  · rename_i hd
    exact .inr (.inr ⟨hd, by cases h; rfl⟩)

end Sys2Proof.Machine
end

