-- ==== Sys2Proof/Laws/Bus.lean ====
section
/-!
SUPPORT. The draws and the exchange of bytes: lengths, and what an exchange leaves of the environment.
-/

namespace Sys2Proof.Machine

@[simp] theorem Env.drawMiso_drdyIn (e : Env) : e.drawMiso.2.drdyIn = e.drdyIn := rfl
@[simp] theorem Env.drawMiso_claimIn (e : Env) : e.drawMiso.2.claimIn = e.claimIn := rfl
@[simp] theorem Env.drawMiso_hangIn (e : Env) : e.drawMiso.2.hangIn = e.hangIn := rfl
@[simp] theorem Env.drawMiso_fseqIn (e : Env) : e.drawMiso.2.fseqIn = e.fseqIn := rfl
@[simp] theorem Env.drawMiso_fseqXfer (e : Env) : e.drawMiso.2.fseqXfer = e.fseqXfer := rfl
@[simp] theorem Env.drawMiso_fseqRead (e : Env) : e.drawMiso.2.fseqRead = e.fseqRead := rfl
@[simp] theorem Env.drawMiso_drawn (e : Env) : e.drawMiso.2.drawn = e.drawn + 1 := rfl
@[simp] theorem Env.drawMiso_misoIn (e : Env) : e.drawMiso.2.misoIn = e.misoIn.tail := rfl

/-- A draw takes the first value the environment has fixed. -/
theorem Env.drawMiso_cons (e : Env) (b : Bool) (bs : List Bool) (h : e.misoIn = b :: bs) :
    e.drawMiso.1 = b := by
  simp [Env.drawMiso, drawFrom, h]

/-- The exchange of `n` bits takes `n` MISO draws and touches nothing else of the environment. -/
theorem exchangeBits_env (t : Byte) (n : Nat) (e : Env) :
    (exchangeBits t n e).2 = { e with misoIn := e.misoIn.drop n, drawn := e.drawn + n } := by
  induction n generalizing e with
  | zero => simp [exchangeBits]
  | succ n ih =>
    simp only [exchangeBits, ih]
    simp [Env.drawMiso, Nat.add_comm, Nat.add_left_comm]

/-- Each bit makes two edges. -/
theorem exchangeBits_length (t : Byte) (n : Nat) (e : Env) : (exchangeBits t n e).1.length = 2 * n := by
  induction n generalizing e with
  | zero => rfl
  | succ n ih =>
    simp only [exchangeBits, List.length_cons, ih]
    omega

/-- The exchange of `n` bytes receives `n` bytes. -/
theorem xbytes_length (n : Nat) (e : Env) : (xbytes n e).1.length = n := by
  induction n generalizing e with
  | zero => rfl
  | succ n ih => simp [xbytes, ih]

/-- Each byte makes sixteen edges. -/
theorem xbytes_edges_length (n : Nat) (e : Env) : (xbytes n e).2.1.length = 16 * n := by
  induction n generalizing e with
  | zero => rfl
  | succ n ih =>
    simp only [xbytes, xbyte, List.length_append, exchangeBits_length, ih]
    omega

/-- The exchange of `n` bytes takes `8 n` MISO draws and touches nothing else of the environment. -/
theorem xbytes_env (n : Nat) (e : Env) :
    (xbytes n e).2.2 = { e with misoIn := e.misoIn.drop (8 * n), drawn := e.drawn + 8 * n } := by
  induction n generalizing e with
  | zero => simp [xbytes]
  | succ n ih =>
    have h8 : 8 + 8 * n = 8 * (n + 1) := by omega
    have hd : e.drawn + 8 + 8 * n = e.drawn + 8 * (n + 1) := by omega
    simp only [xbytes, xbyte, ih, exchangeBits_env, List.drop_drop, h8, hd]

/-- The transfer always has a result: RX takes the received bytes, the pins the edges, the environment the
draws. -/
theorem State.transfer_isSome (s : State) :
    ∃ m, memWriteAll s.rx 0 (xbytes frameLen s.env.drawFseq).1 = some m ∧
      s.transfer =
        some (((s.setRx m).setWire (s.wire ++ (xbytes frameLen s.env.drawFseq).2.1)).setEnv
          (xbytes frameLen s.env.drawFseq).2.2) := by
  obtain ⟨m, hm⟩ := memWriteAll_isSome (xbytes frameLen s.env.drawFseq).1 s.rx 0
    (by rw [xbytes_length]; omega)
  exact ⟨m, hm, by simp [State.transfer, hm]⟩

/-- The transfer step never faults: it moves on. -/
theorem transferOn_eq (c : Command) (k : Fin 8) (s : State) :
    ∃ m, memWriteAll s.rx 0 (xbytes frameLen s.env.drawFseq).1 = some m ∧
      transferOn c k s =
        moveOn c k (((s.setRx m).setWire (s.wire ++ (xbytes frameLen s.env.drawFseq).2.1)).setEnv
          (xbytes frameLen s.env.drawFseq).2.2) := by
  obtain ⟨m, hm, ht⟩ := s.transfer_isSome
  exact ⟨m, hm, by simp [transferOn, ht]⟩

/-- All that later steps need of a transfer: RX is full and still in canonical form, the other items but
the wire and the draws stay, and the frame presented is not older than the last one read (rule R54). -/
theorem transferOn_spec (c : Command) (k : Fin 8) (s : State) :
    ∃ m w e, transferOn c k s = moveOn c k { s with rx := m, wire := w, env := e } ∧
      (s.rx.wf = true → m.wf = true) ∧ (∀ i < frameLen, (m.read i).isSome = true) ∧
      (∀ i, frameLen ≤ i → m.read i = s.rx.read i) ∧
      e.drdyIn = s.env.drdyIn ∧ e.fseqRead = s.env.fseqRead ∧ e.fseqRead ≤ e.fseqXfer := by
  obtain ⟨m, hm, ht⟩ := transferOn_eq c k s
  have hl := xbytes_length frameLen s.env.drawFseq
  have he := xbytes_env frameLen s.env.drawFseq
  generalize xbytes frameLen s.env.drawFseq = x at hm ht hl he
  have hr := memWriteAll_read x.1 s.rx m 0 hm
  refine ⟨m, s.wire ++ x.2.1, x.2.2, ht, fun h => memWriteAll_wf x.1 s.rx m 0 h hm, fun i hi => ?_,
    fun i hi => ?_, ?_, ?_, ?_⟩
  · rw [hr, if_pos ⟨Nat.zero_le i, by omega⟩, List.getElem?_eq_getElem (by omega)]; rfl
  · rw [hr, if_neg (by omega)]
  · rw [he]; rfl
  · rw [he]; rfl
  · rw [he]; simp [Env.drawFseq]

end Sys2Proof.Machine
end

