-- ==== Sys2Proof/Laws/Decode.lean ====
section
/-!
SUPPORT. The decoder and the encoder: operand lemmas, and what the decoder answers on an opcode the host
may not issue.
-/

namespace Sys2Proof

/-- Four bytes cut out of a word and put together again. -/
theorem word_of_bytes (w : Word) :
    (w.extractLsb' 24 8 ++ w.extractLsb' 16 8 ++ w.extractLsb' 8 8 ++ w.extractLsb' 0 8 : BitVec 32) = w := by
  ext i hi
  simp only [BitVec.getElem_append, BitVec.getElem_extractLsb']
  split_ifs <;> (rw [← BitVec.getLsbD_eq_getElem (x := w) (by omega)]; congr 1; omega)

/-- Two bytes cut out of a 16-bit length and put together again. -/
theorem length_of_bytes (n : Nat) (h : n ≤ maxBufLen) :
    bufLength ((BitVec.ofNat 16 n).extractLsb' 8 8) ((BitVec.ofNat 16 n).extractLsb' 0 8) = n := by
  have e : ((BitVec.ofNat 16 n).extractLsb' 8 8 ++ (BitVec.ofNat 16 n).extractLsb' 0 8 : BitVec 16) =
      BitVec.ofNat 16 n := by
    ext i hi
    simp only [BitVec.getElem_append, BitVec.getElem_extractLsb']
    split_ifs <;>
      (rw [← BitVec.getLsbD_eq_getElem (x := BitVec.ofNat 16 n) (by omega)]; congr 1; omega)
  unfold bufLength
  rw [e, BitVec.toNat_ofNat]
  unfold maxBufLen at h
  omega

/-- The CODE operand's bytes decode to the code. -/
theorem decodeCodeOperand_wordBytes (mk : Word → Instr) (w : Word) (rest : List Byte) :
    decodeCodeOperand mk (wordBytes w ++ rest) = .instr (mk w) rest := by
  simp only [wordBytes, List.cons_append, List.nil_append, decodeCodeOperand, word_of_bytes]

/-- An opcode that is no host command's (rule R69) decodes to a micro-operation of that very code, or is
unassigned. -/
theorem decode_not_host (opc : Byte) (rest : List Byte) (h : opc = 0x00#8 ∨ 0x08 ≤ opc.toNat) :
    (∃ i, decode (opc :: rest) = .instr i rest ∧ opcode i = opc ∧ isMicroOpcode (opcode i) = true) ∨
    decode (opc :: rest) = .illegal opc rest := by
  have hop : ∀ n, opc.toNat = n → opc = BitVec.ofNat 8 n := by
    intro n hn; rw [← hn]; simp
  simp only [decode]
  unfold decodeOpcode
  repeat' split
  case h_1 | h_2 | h_3 | h_4 | h_5 | h_6 | h_7 =>
    rename_i hn
    exfalso
    rcases h with rfl | h
    · exact absurd hn (by decide)
    · omega
  all_goals first
    | exact .inr rfl
    | (rename_i hn; exact .inl ⟨_, rfl, by rw [hop _ hn]; rfl, by decide⟩)

end Sys2Proof
end

