-- ==== Sys2Proof/Laws/Float.lean ====
section
/-!
SUPPORT. What the rounding of the conversions does, said once.
-/

namespace Sys2Proof.Machine

/-- The rounded quotient is within half a divisor of the dividend. -/
theorem roundDiv_near (a : Nat) {b : Nat} (hb : 0 < b) :
    2 * (roundDiv a b * b) ≤ 2 * a + b ∧ 2 * a ≤ 2 * (roundDiv a b * b) + b := by
  have h := Nat.div_add_mod a b
  have hm := Nat.mod_lt a hb
  have hc : b * (a / b) = a / b * b := Nat.mul_comm ..
  unfold roundDiv
  split_ifs with h1 h2
  · omega
  · rw [Nat.add_mul]; omega
  · rw [Nat.add_mul]
    rcases Nat.mod_two_eq_zero_or_one (a / b) with h3 | h3 <;> rw [h3] <;> omega

/-- At a tie the rounded quotient is even. -/
theorem roundDiv_tie {a b : Nat} (h : 2 * (a % b) = b) : roundDiv a b % 2 = 0 := by
  unfold roundDiv
  rw [if_neg (by omega), if_neg (by omega)]
  omega

/-- A multiple of the divisor is divided exactly. -/
theorem roundDiv_exact (q : Nat) {b : Nat} (hb : 0 < b) : roundDiv (q * b) b = q := by
  simp [roundDiv, Nat.mul_mod_left, hb, Nat.mul_div_cancel _ hb]

/-- A field below the hidden bit is subnormal: it is its own number of units. -/
theorem fieldUnits_subnormal (f : Format) {field : Nat} (h : field < 2 ^ (f.prec - 1)) :
    f.fieldUnits field = field := by
  simp [Format.fieldUnits, Nat.div_eq_of_lt h]

/-- A field of exponent `e + 1` and fraction `m`. -/
theorem fieldUnits_normal (f : Format) (e : Nat) {m : Nat} (h : m < 2 ^ (f.prec - 1)) :
    f.fieldUnits ((e + 1) * 2 ^ (f.prec - 1) + m) = (2 ^ (f.prec - 1) + m) * 2 ^ e := by
  have hp : 0 < 2 ^ (f.prec - 1) := Nat.two_pow_pos _
  have hd : ((e + 1) * 2 ^ (f.prec - 1) + m) / 2 ^ (f.prec - 1) = e + 1 := by
    rw [Nat.add_comm, Nat.add_mul_div_right _ _ hp, Nat.div_eq_of_lt h, Nat.zero_add]
  have hm : ((e + 1) * 2 ^ (f.prec - 1) + m) % 2 ^ (f.prec - 1) = m := by
    rw [Nat.add_comm, Nat.add_mul_mod_self_right, Nat.mod_eq_of_lt h]
  simp [Format.fieldUnits, hd, hm]

/-- The field of exponent `e` over a rounded significand `q`, the carry to `2 ^ prec` included, is `q * 2 ^ e` units. -/
theorem fieldUnits_build (f : Format) (hp : 2 ≤ f.prec) (e q : Nat) (hq : q ≤ 2 ^ f.prec)
    (he : e = 0 ∨ 2 ^ (f.prec - 1) ≤ q) :
    f.fieldUnits (e * 2 ^ (f.prec - 1) + q) = q * 2 ^ e := by
  have h2 : 2 ^ f.prec = 2 * 2 ^ (f.prec - 1) := by rw [← Nat.pow_succ']; congr 1; omega
  have hpos : 0 < 2 ^ (f.prec - 1) := Nat.two_pow_pos _
  generalize hH : 2 ^ (f.prec - 1) = H at *
  by_cases h1 : q < H
  · rcases he with rfl | he
    · rw [Nat.zero_mul, Nat.zero_add, fieldUnits_subnormal f (by omega)]; simp
    · omega
  · by_cases h3 : q < 2 * H
    · have := fieldUnits_normal f e (m := q - H) (by omega)
      rw [hH] at this
      rw [show e * H + q = (e + 1) * H + (q - H) by rw [Nat.add_mul]; omega, this]
      congr 1
      omega
    · have hq' : q = 2 * H := by omega
      have := fieldUnits_normal f (e+1) (m := 0) (by omega)
      rw [hH] at this
      rw [show e * H + q = (e + 1 + 1) * H + 0 by rw [hq', Nat.add_mul, Nat.add_mul]; omega, this, hq',
        Nat.pow_succ]
      ring

/-- The significand that roundUnits rounds to: `prec` bits at most, and all of them above the lowest binade. -/
theorem significand_bounds (f : Format) (hp : 2 ≤ f.prec) (n d : Nat) :
    roundDiv n (d * 2 ^ f.shift n d) ≤ 2 ^ f.prec ∧
      (f.shift n d = 0 ∨ 2 ^ (f.prec - 1) ≤ roundDiv n (d * 2 ^ f.shift n d)) := by
  have hle : ∀ a b, a / b ≤ roundDiv a b ∧ roundDiv a b ≤ a / b + 1 := by
    intro a b; unfold roundDiv; split_ifs <;> omega
  set e := f.shift n d with he
  have hdd : n / (d * 2 ^ e) = n / d / 2 ^ e := by rw [Nat.div_div_eq_div_mul]
  have hb := hle n (d * 2 ^ e)
  rw [hdd] at hb
  set y := n / d with hy
  have hlt : y < 2 ^ (e + f.prec) := by
    by_cases h0 : y = 0
    · rw [h0]; exact Nat.two_pow_pos _
    · have h5 : e = Nat.log2 y + 1 - f.prec := by rw [he, hy]; rfl
      have : Nat.log2 y < e + f.prec := by omega
      exact (Nat.log2_lt h0).mp this
  have hq : y / 2 ^ e < 2 ^ f.prec := by
    rw [Nat.div_lt_iff_lt_mul (Nat.two_pow_pos _), ← Nat.pow_add, Nat.add_comm]; exact hlt
  refine ⟨by omega, ?_⟩
  by_cases h0 : e = 0
  · exact .inl h0
  · right
    have hy0 : y ≠ 0 := by
      intro h; apply h0; rw [he]; unfold Format.shift; rw [← hy, h]; simp [Nat.log2]; omega
    have hlog : Nat.log2 y = e + f.prec - 1 := by
      have : e = Nat.log2 y + 1 - f.prec := by rw [he, hy]; rfl
      omega
    have : 2 ^ (e + f.prec - 1) ≤ y := by rw [← hlog]; exact Nat.log2_self_le hy0
    have : 2 ^ (f.prec - 1) ≤ y / 2 ^ e := by
      rw [Nat.le_div_iff_mul_le (Nat.two_pow_pos _), ← Nat.pow_add]
      rwa [show f.prec - 1 + e = e + f.prec - 1 by omega]
    omega

/-- What roundUnits does: a magnitude that does not overflow is rounded to a multiple of its ulp. -/
theorem roundUnits_units (f : Format) (hp : 2 ≤ f.prec) (n d : Nat) (h : f.roundUnits n d < f.infinity) :
    f.fieldUnits (f.roundUnits n d) = roundDiv n (d * 2 ^ f.shift n d) * 2 ^ f.shift n d := by
  have hb := significand_bounds f hp n d
  unfold Format.roundUnits at *
  rw [Nat.min_eq_left (by omega)]
  exact fieldUnits_build f hp _ _ hb.1 hb.2

/-- A magnitude that does not overflow is rounded by at most half an ulp. -/
theorem roundUnits_near (f : Format) (hp : 2 ≤ f.prec) (n d : Nat) (hd : 0 < d)
    (h : f.roundUnits n d < f.infinity) :
    2 * |(f.fieldUnits (f.roundUnits n d) : Int) * d - n| ≤ d * 2 ^ f.shift n d := by
  rw [roundUnits_units f hp n d h]
  have hpos : 0 < d * 2 ^ f.shift n d := Nat.mul_pos hd (Nat.two_pow_pos _)
  have := roundDiv_near n hpos
  generalize hE : 2 ^ f.shift n d = E at *
  generalize hQ : roundDiv n (d * E) = Q at *
  push_cast
  have e1 : (Q : Int) * E * d = ((Q * (d * E) : Nat) : Int) := by push_cast; ring
  rw [e1]
  generalize Q * (d * E) = Z at *
  have e2 : (d : Int) * (2:Int) ^ f.shift n d = ((d * E : Nat) : Int) := by rw [← hE]; push_cast; rfl
  rw [e2]
  generalize d * E = Y at *
  have h1 : |(Z:Int) - n| ≤ max ((Z:Int) - n) (n - Z) := by rw [abs_le']; constructor <;> omega
  omega

/-- No rounded magnitude is above infinity. -/
theorem roundUnits_le (f : Format) (n d : Nat) : f.roundUnits n d ≤ f.infinity := Nat.min_le_right _ _

end Sys2Proof.Machine
end

