-- ==== Sys2Proof/Laws/PerInstr.lean ====
section
/-!
SUPPORT. Statements about every instruction as syntax, one lemma a constructor.
-/

namespace Sys2Proof.Laws.SerialForm

/-- The serialised form of a well-formed instruction (spec/30_encoding.md rules R58 to R60 and R70): its first byte is
its opcode, bit 7 of which tells the two spaces apart, and its length is the one its first bytes give. -/
def Statement (i : Instr) : Prop :=
  WellFormed i = true →
    (encode i).head? = some (opcode i) ∧
    (isMicroOpcode (opcode i) = true ↔ 0x80 ≤ (opcode i).toNat) ∧
    (encode i).length = serialLength (encode i)

theorem init : Statement .init := fun _ => ⟨rfl, by decide, by decide⟩
theorem ready : Statement .ready := fun _ => ⟨rfl, by decide, by decide⟩
theorem read : Statement .read := fun _ => ⟨rfl, by decide, by decide⟩
theorem decode (buf : List Byte) : Statement (.decode buf) := fun h => by
  refine ⟨rfl, by simp [isMicroOpcode, opcode], ?_⟩
  have hb : buf.length ≤ maxBufLen := by simpa [WellFormed] using h
  have := length_of_bytes buf.length hb
  simp only [encode, operandBytes, opcode, serialLength, List.getD_cons_zero, List.getD_cons_succ,
    List.length_cons]
  simp only [this, show (0x04#8 : Byte).toNat = 4 from rfl]
  omega
theorem cvtV (code : Word) : Statement (.cvtV code) := fun _ => ⟨rfl, by simp [isMicroOpcode, opcode], rfl⟩
theorem cvtMv (code : Word) : Statement (.cvtMv code) := fun _ => ⟨rfl, by simp [isMicroOpcode, opcode], rfl⟩
theorem destroy : Statement .destroy := fun _ => ⟨rfl, by decide, by decide⟩
theorem uMclkStart : Statement .uMclkStart := fun _ => ⟨rfl, by decide, by decide⟩
theorem uWaitStab : Statement .uWaitStab := fun _ => ⟨rfl, by decide, by decide⟩
theorem uCsInit : Statement .uCsInit := fun _ => ⟨rfl, by decide, by decide⟩
theorem uDrdyInit : Statement .uDrdyInit := fun _ => ⟨rfl, by decide, by decide⟩
theorem uBusUp : Statement .uBusUp := fun _ => ⟨rfl, by decide, by decide⟩
theorem uSampleDrdy : Statement .uSampleDrdy := fun _ => ⟨rfl, by decide, by decide⟩
theorem uTxnBegin : Statement .uTxnBegin := fun _ => ⟨rfl, by decide, by decide⟩
theorem uCsAssert : Statement .uCsAssert := fun _ => ⟨rfl, by decide, by decide⟩
theorem uXfer : Statement .uXfer := fun _ => ⟨rfl, by decide, by decide⟩
theorem uCsDeassert : Statement .uCsDeassert := fun _ => ⟨rfl, by decide, by decide⟩
theorem uTxnEnd : Statement .uTxnEnd := fun _ => ⟨rfl, by decide, by decide⟩
theorem uDecode : Statement .uDecode := fun _ => ⟨rfl, by decide, by decide⟩
theorem uBusRelease : Statement .uBusRelease := fun _ => ⟨rfl, by decide, by decide⟩

end Sys2Proof.Laws.SerialForm
end

