-- ==== Sys2Proof/Tests/Slice0.lean ====
section
/-!
SUPPORT. Tests. Expected results come from spec/95_test_vectors.md (the vector is named) or from the
encodings of spec/30_encoding.md, never from the model. The second half shows, for each obligation with
hypotheses, a concrete state and operands that meet them.
-/

namespace Sys2Proof.Tests

open Sys2Proof.Machine

/-! ## Helpers -/

/-- The next state, if the outcome is one. -/
def nextOf (o : Out) : Option State :=
  match o with
  | .next s => some s
  | .fault _ => none
  | .refused _ => none

/-- One item of the next state. -/
def item {α : Type} (o : Out) (get : State → α) : Option α := (nextOf o).map get

/-- A state reached by an INIT that returned OK (V-FAC-1). -/
def ready0 : State :=
  { State.reset with
    lc := .init, mclk := mclkRunning, spi := { Spi.reset with up := true },
    cs := { dir := .out, lvl := some .high }, drdy := .input, wire := [.cs .high],
    result := some { code := .ok, payload := .none } }

/-- The same state with the environment's next DRDY samples fixed. -/
def sampling (levels : List Level) : State := { ready0 with env := { Env.reset with drdyIn := levels } }

/-- CR2 inside a transaction bracket. -/
def openSpi : Spi :=
  { up := true, bitrateHz := some 4000000#32, msbFirst := some true, cpol := some false, cpha := some true,
    txn := true, claim := true }

/-- CR2 after the bracket has closed. -/
def closedSpi : Spi := { openSpi with txn := false, claim := false }

/-- A READ before one of its steps, chip-select at a level. -/
def inRead (k : Fin 8) (spi : Spi) (lvl : Level) : State :=
  { ready0 with upc := .running .read k, spi := spi, cs := { dir := .out, lvl := some lvl } }

/-- An INIT before one of its steps. -/
def inInit (k : Fin 8) : State := { State.reset with upc := .running .init k }

/-- The state with another configuration. -/
def withCfg (s : State) (cfg : Config) : State := { s with cfg := cfg }

/-- A configuration with no valid pin. -/
def noPins : Config := { Config.default with validPins := [] }

/-- The 27 bytes of scenario S2. -/
def s2 : List Byte :=
  [0x00#8, 0x00#8, 0x00#8, 0x00#8, 0x00#8, 0x01#8, 0xFF#8, 0xFF#8, 0xFF#8] ++
  [0x7F#8, 0xFF#8, 0xFF#8, 0x80#8, 0x00#8, 0x00#8, 0x00#8, 0x80#8, 0x00#8] ++
  [0xFF#8, 0x80#8, 0x00#8, 0x00#8, 0x00#8, 0x80#8, 0x12#8, 0x34#8, 0x56#8]

/-- The frame of scenario S2. -/
def s2Frame : Frame :=
  { status := 0x000000#24
    ch := #v[0x00000001#32, 0xFFFFFFFF#32, 0x007FFFFF#32, 0xFF800000#32,
             0x00008000#32, 0xFFFF8000#32, 0x00000080#32, 0x00123456#32] }

/-- The receive buffer holding given bytes. -/
def cells : Nat → List Byte → Memory
  | _, [] => []
  | i, b :: bs => (i, b) :: cells (i + 1) bs

/-! ## Well-formedness and decoding -/

/-- The one check of WellFormed: 65536 bytes do not fit the 16-bit length field (rule R58). -/
theorem test_too_long_buf_refused : WellFormed (.decode (List.replicate 65536 0#8)) = false := by
  rw [WellFormed, List.length_replicate]; decide

theorem test_longest_buf_admitted : WellFormed (.decode (List.replicate 65535 0#8)) = true := by
  rw [WellFormed, List.length_replicate]; decide

/-- Rule R59: the rows of the host commands (operand bytes beyond the row's 8 bits are 0). -/
theorem test_host_rows_decode :
    [0x01, 0x02, 0x03, 0x04, 0x05, 0x06, 0x07].map (decodeTableWord 8) =
      [some .init, some .ready, some .read, some (.decode []), some (.cvtV 0#32), some (.cvtMv 0#32),
       some .destroy] := by decide

/-- Rule R60: the rows of the micro-operations. -/
theorem test_micro_rows_decode :
    [0x80, 0x81, 0x82, 0x83, 0x84, 0x85, 0x86].map (decodeTableWord 8) =
      [some .uMclkStart, some .uWaitStab, some .uCsInit, some .uDrdyInit, some .uBusUp, some .uSampleDrdy,
       some .uTxnBegin] ∧
    [0x87, 0x88, 0x89, 0x8A, 0x8B, 0x8C].map (decodeTableWord 8) =
      [some .uCsAssert, some .uXfer, some .uCsDeassert, some .uTxnEnd, some .uDecode,
       some .uBusRelease] := by decide

/-- Rule R69: the neighbours of the two spaces are illegal (V-FAC-11, 12 and 14 among them). -/
theorem test_illegal_rows_refused :
    [0x00, 0x08, 0x7F, 0x8D, 0xFF].map (decodeTableWord 8) = [none, none, none, none, none] := by decide

/-- Bits are counted from the first byte: CVT_V with its operand, and CVT_MV 1193046 (V-CVT serialised). -/
theorem test_operand_words_decode :
    decodeTableWord 40 0x0000800005 = some (.cvtV 0x00800000#32) ∧
    decodeTableWord 40 0x5634120006 = some (.cvtMv 0x00123456#32) ∧
    decodeTableWord 40 0xBBAA020004 = some (.decode [0xAA#8, 0xBB#8]) := by decide

/-- Rule R58: an instruction that is not all there. -/
theorem test_truncated_is_incomplete :
    decode [0x05#8, 0x00#8, 0x7F#8, 0xFF#8] = .incomplete ∧
    decode [0x04#8, 0x00#8, 0x02#8, 0xAA#8] = .incomplete := by decide

/-- Rule R71: the lines of programs P1 to P3, and lines that are none. -/
theorem test_assembler :
    assembleLine "READ  ; 03".toList = some (.command .read) ∧
    assembleLine "CVT_V -8388608".toList = some (.command (.cvtV 0xFF800000#32)) ∧
    assembleLine "CVT_MV 0x400000".toList = some (.command (.cvtMv 4194304#32)) ∧
    assembleLine "DECODE 00 7F | EE".toList = some (.command (.decode [0x00#8, 0x7F#8, 0xEE#8])) ∧
    assembleLine "; env: DRDY LOW".toList = some .blank ∧
    assembleLine "WAIT_READY".toList = some .waitReady ∧
    assembleLine "U_XFER".toList = none := by decide

/-- The last values of the operand range of rule R71. -/
theorem test_assembler_range :
    assembleLine "CVT_V 2147483647".toList = some (.command (.cvtV 0x7FFFFFFF#32)) ∧
    assembleLine "CVT_V 2147483648".toList = none ∧
    assembleLine "CVT_V -2147483648".toList = some (.command (.cvtV 0x80000000#32)) := by decide

/-! ## The step and the placed word -/

/-- From reset, a placed INIT is the next thing the step runs (rule R18). -/
theorem test_placed_init_runs :
    item (step (State.reset.withFetchWord 8 0x01)) (·.upc) = some (.running .init 0) := by decide

/-- A placed micro-operation runs at its own step of a sequence. -/
theorem test_placed_micro_runs :
    item (step (State.reset.withFetchWord 8 0x80)) (fun s => (s.mclk.run, s.upc)) =
      some (true, .running .init 1) := by decide

/-- Rule R145: a reset request is served although FAULT is set. -/
theorem test_reset_clears_fault :
    item (step { faulted ready0 .illegalCmd 0x00#8 with host := { cmdIn := [], resetReq := true } })
      (fun s => (s.fault, s.lc, s.mclk.run)) = some (none, .uninit, false) := by decide

/-! ## Host commands -/

/-- V-FAC-5: two coinciding pins. -/
theorem test_init_pin_conflict :
    item (exec .init (withCfg State.reset
        { Config.default with pins := { Config.default.pins with cs := 2 } })) (fun s => (s.fault, s.mclk.run)) =
      some (some { code := .pinConflict, opc := 0x01#8, upc := .running .init 0 }, false) := by decide

/-- V-FAC-2: INIT again. -/
theorem test_init_twice :
    item (exec .init ready0) (·.fault) = some (some { code := .wrongState, opc := 0x01#8, upc := .idle }) := by
  decide

/-- V-FAC-4. -/
theorem test_ready_before_init :
    item (exec .ready State.reset) (·.fault) =
      some (some { code := .wrongState, opc := 0x02#8, upc := .idle }) := by decide

/-- V-FAC-3. -/
theorem test_read_before_init :
    item (exec .read State.reset) (·.fault) =
      some (some { code := .wrongState, opc := 0x03#8, upc := .idle }) := by decide

/-- V-DEC-18 and V-DEC-21: the S2 bytes and one more, before INIT. -/
theorem test_decode_s2 :
    item (exec (.decode (s2 ++ [0xEE#8])) State.reset) (·.result) =
      some (some { code := .ok, payload := .frame s2Frame }) := by decide

/-- V-DEC-19. -/
theorem test_decode_short :
    item (exec (.decode (List.replicate 26 0#8)) State.reset) (·.fault) =
      some (some { code := .shortBuffer, opc := 0x04#8, upc := .running .decode 0 }) := by decide

/-- V-CVT-6 in a step. -/
theorem test_cvt_v_step :
    item (exec (.cvtV 8388607#32) State.reset) (·.result) =
      some (some { code := .ok, payload := .f32 0x3F999999#32 }) := by decide +kernel

/-- V-FAC-8. -/
theorem test_cvt_v_failed :
    item (exec (.cvtV 0#32) { State.reset with lc := .failed }) (·.fault) =
      some (some { code := .wrongState, opc := 0x05#8, upc := .idle }) := by decide

/-- V-CVT-5 in a step (scenario S5). -/
theorem test_cvt_mv_step :
    item (exec (.cvtMv 4194304#32) ready0) (·.result) =
      some (some { code := .ok, payload := .f32 0x44160000#32 }) := by decide +kernel

/-- V-FAC-10: DESTROY is admitted before INIT. -/
theorem test_destroy_uninit :
    item (exec .destroy State.reset) (fun s => (s.fault, s.upc)) = some (none, .running .destroy 0) := by decide

/-- V-FAC-9. -/
theorem test_destroy_twice :
    item (exec .destroy { State.reset with lc := .destroyed }) (·.fault) =
      some (some { code := .wrongState, opc := 0x07#8, upc := .idle }) := by decide

/-! ## Micro-operations -/

/-- V-CLK-5: the pin is checked before the timer. -/
theorem test_mclk_start_pin_first :
    item (exec .uMclkStart (withCfg (inInit 0) { noPins with timerFree := false }))
      (fun s => (s.result, s.lc, s.mclk.run)) =
      some (some { code := .eInvalidPin, payload := .none }, .failed, false) := by decide

/-- V-CLK-7: a second start does not look at the timer. -/
theorem test_mclk_start_again :
    item (exec .uMclkStart (withCfg { inInit 0 with mclk := mclkRunning }
      { Config.default with timerFree := false })) (fun s => (s.mclk, s.upc)) =
      some (mclkRunning, .running .init 1) := by decide

/-- V-CLK-6. -/
theorem test_wait_stab :
    item (exec .uWaitStab { inInit 1 with mclk := { mclkRunning with settled := false } })
      (fun s => (s.mclk, s.upc)) = some (mclkRunning, .running .init 2) := by decide

/-- V-BUS-11. -/
theorem test_cs_init_bad_pin :
    item (exec .uCsInit (withCfg { inInit 2 with mclk := mclkRunning } noPins))
      (fun s => (s.result, s.cs.dir, s.lc, s.mclk.run)) =
      some (some { code := .eInvalidPin, payload := .none }, .unconf, .failed, true) := by decide

/-- V-BUS-12. -/
theorem test_drdy_init_bad_pin :
    item (exec .uDrdyInit (withCfg (inInit 3) { Config.default with validPins := [0, 1, 3, 4, 5] }))
      (fun s => (s.result, s.drdy)) = some (some { code := .eInvalidPin, payload := .none }, .unconf) := by decide

/-- V-BUS-13: pin_miso. -/
theorem test_bus_up_bad_pin :
    item (exec .uBusUp (withCfg (inInit 4) { Config.default with validPins := [0, 1, 2, 3, 5] }))
      (fun s => (s.result, s.spi.up)) = some (some { code := .eInvalidPin, payload := .none }, false) := by decide

/-- V-BUS-14. -/
theorem test_bus_up_unavailable :
    item (exec .uBusUp (withCfg (inInit 4) { Config.default with busAvailable := false }))
      (fun s => (s.result, s.spi.up)) = some (some { code := .eBusCfg, payload := .none }, false) := by decide

/-- V-BUS-1. -/
theorem test_sample_low :
    item (exec .uSampleDrdy { sampling [.low] with upc := .running .ready 0 }) (·.result) =
      some (some { code := .ok, payload := .bool true }) := by decide

/-- V-FAC-17: NOT_READY, with FRAME_OUT as it was. -/
theorem test_sample_high_in_read :
    item (exec .uSampleDrdy { sampling [.high] with upc := .running .read 0 })
      (fun s => (s.result, s.frameOut, s.upc)) =
      some (some { code := .notReady, payload := .none }, FrameOut.reset, .idle) := by decide

/-- V-BUS-4. -/
theorem test_txn_begin :
    item (exec .uTxnBegin (inRead 1 { Spi.reset with up := true } .high)) (·.spi) = some openSpi := by decide

/-- V-BUS-5: the hold while OTHER_CLAIM is 1. -/
theorem test_txn_begin_holds :
    item (exec .uTxnBegin { withCfg (inRead 1 { Spi.reset with up := true } .high)
        { Config.default with sharedBus := true } with env := { Env.reset with claimIn := [true, false] } })
      (fun s => (s.spi.claim, s.upc)) = some (false, .running .read 1) := by decide

/-- V-BUS-6. -/
theorem test_cs_assert :
    item (exec .uCsAssert (inRead 2 openSpi .high)) (fun s => (s.cs.lvl, pinView .cs s)) =
      some (some .low, .driven .low) := by decide

/-- V-BUS-7: the bits 1,0,1,0,0,1,0,1 are 0xA5. -/
theorem test_xbyte :
    (xbyte 0x00#8 { Env.reset with misoIn := [true, false, true, false, false, true, false, true] }).1 =
      0xA5#8 := by decide

/-- V-BUS-8: the S2 bytes arrive in order. -/
theorem test_xfer_s2 :
    item (exec .uXfer { inRead 3 openSpi .low with
        env := { Env.reset with misoIn := s2.flatMap bitsOfByte } }) (·.rx) = some (cells 0 s2) := by
  decide +kernel

/-- V-BUS-16: a transfer that hangs goes nowhere. -/
theorem test_xfer_hangs :
    item (exec .uXfer { withCfg (inRead 3 openSpi .low) { Config.default with busMayHang := true } with
        env := { Env.reset with hangIn := [true] } }) (fun s => (s.cs.lvl, s.spi.claim, s.upc)) =
      some (some .low, true, .running .read 3) := by decide

/-- V-BUS-10, first half. -/
theorem test_cs_deassert :
    item (exec .uCsDeassert (inRead 4 openSpi .low)) (·.cs.lvl) = some (some .high) := by decide

/-- V-BUS-10, second half. -/
theorem test_txn_end :
    item (exec .uTxnEnd (inRead 5 openSpi .high)) (·.spi) = some closedSpi := by decide

/-- The end of P1's READ. -/
theorem test_decode_step :
    item (exec .uDecode { inRead 6 closedSpi .high with rx := cells 0 s2 }) (fun s => (s.frameOut, s.result)) =
      some ({ valid := true, status := some s2Frame.status, ch := some s2Frame.ch },
        some { code := .ok, payload := .frame s2Frame }) := by decide +kernel

/-- V-BUS-15. -/
theorem test_bus_release_down :
    item (exec .uBusRelease { State.reset with upc := .running .destroy 0 }) (·.spi) = some Spi.reset := by decide

/-! ## Fields and conversions -/

/-- V-DEC-4 to V-DEC-6, V-DEC-10. -/
theorem test_sign_extension :
    [0x7FFFFF#24, 0x800000#24, 0x800001#24, 0xC00000#24].map signExtend24 =
      [0x007FFFFF#32, 0xFF800000#32, 0xFF800001#32, 0xFFC00000#32] := by decide

/-- V-BIT-5 and V-BIT-9: the first and the last bit of the channels. -/
theorem test_stream_bits :
    (decodeFn ((List.range 27).map fun i => if i = 3 then 0x80#8 else 0#8)).ch[0] = 0xFF800000#32 ∧
    (decodeFn ((List.range 27).map fun i => if i = 26 then 0x01#8 else 0#8)).ch[7] = 1#32 := by decide

/-- V-CVT-2, 8, 16 and 18 under BINARY32. -/
theorem test_volts_binary32 :
    [1#32, 1193046#32, 16777217#32, 0x80000000#32].map (cvtVolts .binary32) =
      [0x3419999A#32, 0x3E2EC33A#32, 0x4019999A#32, 0xC399999A#32] := by decide +kernel

/-- V-CVT-2, 8, 18 and 21 under BINARY32. -/
theorem test_millivolts_binary32 :
    [1#32, 1193046#32, 0x80000000#32, 1000#32].map (cvtMillivolts .binary32) =
      [0x39160000#32, 0x432AAAA7#32, 0xC8960000#32, 0x3E127C00#32] := by decide +kernel

/-- V-CVT-9 and V-CVT-9a under BINARY32_MVSCALE. -/
theorem test_millivolts_mvscale :
    [1193046#32, 217#32].map (cvtMillivolts .binary32MvScale) = [0x432AAAA6#32, 0x3CFE4C00#32] := by
  decide +kernel

/-- V-CVT-10, 10a, 10b and 10d under DOUBLE. -/
theorem test_volts_double :
    [8388607#32, 0xFF800001#32, 8388606#32, 217#32].map (cvtVolts .double) =
      [0x3F999998#32, 0xBF999998#32, 0x3F999997#32, 0x38023333#32] := by decide +kernel

/-- V-CVT-9, 9a and 10c under DOUBLE. -/
theorem test_millivolts_double :
    [1193046#32, 217#32, 16777217#32].map (cvtMillivolts .double) =
      [0x432AAAA6#32, 0x3CFE4C00#32, 0x45160001#32] := by decide +kernel

/-- The serialised response of scenario S2 (rule R61). -/
theorem test_response_bytes :
    ({ code := .ok, payload := .frame s2Frame } : Response).bytes =
      [0x00#8, 0x00#8, 0x00#8, 0x00#8] ++
      [0x00#8, 0x00#8, 0x00#8, 0x01#8, 0xFF#8, 0xFF#8, 0xFF#8, 0xFF#8] ++
      [0x00#8, 0x7F#8, 0xFF#8, 0xFF#8, 0xFF#8, 0x80#8, 0x00#8, 0x00#8] ++
      [0x00#8, 0x00#8, 0x80#8, 0x00#8, 0xFF#8, 0xFF#8, 0x80#8, 0x00#8] ++
      [0x00#8, 0x00#8, 0x00#8, 0x80#8, 0x00#8, 0x12#8, 0x34#8, 0x56#8] := by decide

/-- V-CLK-8: two counter steps HIGH, two LOW. -/
theorem test_waveform :
    [0, 1, 2, 3, 4].map (clockLevel ready0) =
      [some .high, some .high, some .low, some .low, some .high] := by decide

/-- Rule R9: 125 ns, 62.5 ns, 250 ns, 216 bits, 54 us. -/
theorem test_derived_constants :
    mclkPeriodPs = 125000 ∧ mclkHighPs = 62500 ∧ sclkPeriodPs = 250000 ∧ frameBits = 216 ∧
    frameTimePs = 54000000 := by decide

/-- Rule R9, last clause: 10 and 2.5 base-clock periods with F_BASE = 80 MHz. -/
theorem test_base_clock_constants (c : Config) (h : c.fBase = 80000000) :
    c.mclkBasePeriods = 10 ∧ c.dutyStepBasePeriods = 5 / 2 := by
  norm_num [Config.mclkBasePeriods, Config.dutyStepBasePeriods, h, fMclk, pwmResBits]

/-! ## Witnesses: the hypotheses of each obligation can be met, clause by clause -/

theorem test_witness_DecodeOfEncode :
    WellFormed (.decode (List.replicate 65535 0#8)) = true ∧ WellFormed (.cvtV 0x80000000#32) = true ∧
    WellFormed .uBusRelease = true := ⟨test_longest_buf_admitted, rfl, rfl⟩

theorem test_witness_EncodeOfDecode :
    decode [0x04#8, 0x00#8, 0x01#8, 0xAA#8, 0x07#8] = .instr (.decode [0xAA#8]) [0x07#8] := by decide

/-- A state at a command boundary whose host has sent given bytes. -/
def sent (bytes : List Byte) : State := { ready0 with host := { cmdIn := bytes, resetReq := false } }

theorem test_witness_StepRunsHostCommand :
    AtBoundary (sent [0x02#8, 0x03#8]) ∧ (sent [0x02#8, 0x03#8]).host.resetReq = false ∧
    decode (sent [0x02#8, 0x03#8]).host.cmdIn = .instr .ready [0x03#8] ∧
    AtBoundary (sent []) ∧ decode (sent []).host.cmdIn = .incomplete := by
  unfold AtBoundary; decide

theorem test_witness_StepRunsSequences (c : Command) (k : Fin 8) :
    ({ ready0 with upc := .running c k } : State).fault = none ∧
    ({ ready0 with upc := .running c k } : State).host.resetReq = false ∧
    ({ ready0 with upc := .running c k } : State).upc = .running c k := ⟨rfl, rfl, rfl⟩

theorem test_witness_SystemResetReconstructs :
    ({ faulted ready0 .illegalCmd 0x00#8 with hung := true, host := { cmdIn := [], resetReq := true } } : State
      ).host.resetReq = true := rfl

theorem test_witness_IllegalOpcodesFault :
    AtBoundary (sent [0x00#8]) ∧ AtBoundary (sent [0x08#8]) ∧ AtBoundary (sent [0xFF#8]) ∧
    (sent [0x00#8]).host.cmdIn = [0x00#8] ∧ (sent [0x08#8]).host.resetReq = false ∧
    8 ≤ (0x08#8 : Byte).toNat ∧ 8 ≤ (0xFF#8 : Byte).toNat := by unfold AtBoundary; decide

theorem test_witness_MicroOperationsIllegalAtHost :
    AtBoundary ready0 ∧ isMicroOpcode (opcode .uMclkStart) = true ∧
    isMicroOpcode (opcode .uBusRelease) = true := by unfold AtBoundary; decide

theorem test_witness_ConcurrentCommandsRefused :
    AtStep (inRead 3 openSpi .low) .read 3 ∧ stepAt .read 3 ≠ some .read ∧
    stepAt .read 3 ≠ some .uCsAssert := by unfold AtStep; decide

theorem test_witness_FaultStopsTheBlock :
    (faulted ready0 .illegalCmd 0x00#8).fault =
      some { code := .illegalCmd, opc := 0x00#8, upc := .idle } ∧
    (faulted ready0 .illegalCmd 0x00#8).host.resetReq = false := by decide

theorem test_witness_LifecycleAdmission :
    AtBoundary State.reset ∧ AtBoundary ready0 ∧ AtBoundary { State.reset with lc := .failed } ∧
    AtBoundary { State.reset with lc := .destroyed } := by unfold AtBoundary; decide

/-- A block whose chip-select and data-ready pins coincide. -/
def conflicting : State :=
  withCfg State.reset { Config.default with pins := { Config.default.pins with cs := 2 } }

theorem test_witness_OperandChecksFault :
    AtBoundary conflicting ∧ conflicting.lc = .uninit ∧ ¬ conflicting.cfg.pins.toList.Nodup ∧
    State.reset.lc = .uninit ∧ ready0.lc = .init ∧ AtBoundary ready0 ∧
    ([] : List Byte).length < 27 ∧ (List.replicate 26 (0#8 : Byte)).length < 27 := by
  unfold AtBoundary; decide

theorem test_witness_InitRunsToItsResult :
    AtBoundary ready0 ∧ ready0.host.resetReq = false ∧ ready0.lc ≠ .uninit ∧
    AtBoundary conflicting ∧ conflicting.host.resetReq = false ∧ ¬ conflicting.cfg.pins.toList.Nodup ∧
    AtBoundary State.reset ∧ State.reset.lc = .uninit ∧ State.reset.cfg.pins.toList.Nodup := by
  unfold AtBoundary; decide

theorem test_witness_ReadyReturnsTheLevel :
    AtBoundary State.reset ∧ State.reset.lc ≠ .init ∧ AtBoundary (sampling [.low]) ∧
    (sampling [.low]).host.resetReq = false ∧ (sampling [.low]).lc = .init ∧
    (sampling [.low]).drdy = .input := by unfold AtBoundary; decide

theorem test_witness_ReadNotReady :
    AtBoundary (sampling [.high]) ∧ (sampling [.high]).host.resetReq = false ∧ (sampling [.high]).lc = .init ∧
    (sampling [.high]).drdy = .input ∧ (sampling [.high]).env.drawDrdy.1 = .high := by
  unfold AtBoundary; decide

theorem test_witness_DestroyReleasesTheBus :
    AtBoundary { State.reset with lc := .destroyed } ∧ AtBoundary { State.reset with lc := .failed } ∧
    AtBoundary ready0 ∧ ready0.lc ≠ .destroyed ∧ State.reset.lc ≠ .destroyed ∧
    State.reset.host.resetReq = false := by unfold AtBoundary; decide

theorem test_witness_DecodeCommandResult :
    AtBoundary { State.reset with lc := .failed } ∧ AtBoundary { State.reset with lc := .destroyed } ∧
    AtBoundary State.reset ∧ State.reset.lc = .uninit ∧ AtBoundary ready0 ∧ ready0.lc = .init ∧
    (List.replicate 26 (0#8 : Byte)).length < 27 ∧ 27 ≤ s2.length ∧ 27 ≤ (s2 ++ [0xEE#8]).length := by
  unfold AtBoundary; decide

theorem test_witness_VoltsCommandResult :
    AtBoundary { State.reset with lc := .failed } ∧ AtBoundary State.reset ∧ State.reset.lc = .uninit := by
  unfold AtBoundary; decide

theorem test_witness_MillivoltsCommandResult :
    AtBoundary { State.reset with lc := .destroyed } ∧ AtBoundary ready0 ∧ ready0.lc = .init := by
  unfold AtBoundary; decide

theorem test_witness_MclkStartEffect :
    AtStep (withCfg (inInit 0) noPins) .init 0 ∧ noPins.pinValid noPins.pins.mclk = false ∧
    AtStep (withCfg (inInit 0) { Config.default with timerFree := false }) .init 0 ∧
    (inInit 0).mclk.run = false ∧ Config.default.pinValid Config.default.pins.mclk = true ∧
    AtStep (withCfg (inInit 0) { Config.default with clockFeasible := false }) .init 0 ∧
    AtStep { inInit 0 with mclk := mclkRunning } .init 0 ∧ mclkRunning.run = true ∧
    AtStep (inInit 0) .init 0 ∧ Config.default.timerFree = true ∧ Config.default.clockFeasible = true := by
  unfold AtStep; decide

theorem test_witness_WaitStabEffect :
    AtStep (inInit 1) .init 1 ∧ AtStep (inInit 5) .init 5 := by unfold AtStep; decide

theorem test_witness_CsInitEffect :
    AtStep (withCfg (inInit 2) noPins) .init 2 ∧ noPins.pinValid noPins.pins.cs = false ∧
    AtStep (inInit 2) .init 2 ∧ Config.default.pinValid Config.default.pins.cs = true := by
  unfold AtStep; decide

theorem test_witness_DrdyInitEffect :
    AtStep (withCfg (inInit 3) noPins) .init 3 ∧ noPins.pinValid noPins.pins.drdy = false ∧
    AtStep (inInit 3) .init 3 ∧ Config.default.pinValid Config.default.pins.drdy = true := by
  unfold AtStep; decide

theorem test_witness_BusUpEffect :
    AtStep (withCfg (inInit 4) noPins) .init 4 ∧ noPins.pinValid noPins.pins.sclk = false ∧
    AtStep (inInit 4) .init 4 ∧ Config.default.pinValid Config.default.pins.sclk = true ∧
    Config.default.pinValid Config.default.pins.mosi = true ∧
    Config.default.pinValid Config.default.pins.miso = true ∧ Config.default.busAvailable = true ∧
    AtStep (withCfg (inInit 4) { Config.default with busAvailable := false }) .init 4 := by
  unfold AtStep; decide

theorem test_witness_SampleDrdyEffect :
    AtStep { State.reset with upc := .running .ready 0 } .ready 0 ∧ State.reset.drdy = .unconf ∧
    AtStep { ready0 with upc := .running .ready 0 } .ready 0 ∧ ready0.drdy = .input ∧
    AtStep { State.reset with upc := .running .read 0 } .read 0 ∧
    AtStep { sampling [.low] with upc := .running .read 0 } .read 0 ∧ (sampling [.low]).env.drawDrdy.1 = .low ∧
    AtStep { sampling [.high] with upc := .running .read 0 } .read 0 ∧
    (sampling [.high]).env.drawDrdy.1 = .high := by unfold AtStep; decide

/-- A READ before U_TXN_BEGIN on a shared bus, with the next values of OTHER_CLAIM. -/
def claiming (claims : List Bool) : State :=
  { withCfg (inRead 1 { Spi.reset with up := true } .high) { Config.default with sharedBus := true } with
    env := { Env.reset with claimIn := claims } }

theorem test_witness_TxnBeginEffect :
    AtStep (inRead 1 openSpi .high) .read 1 ∧ openSpi.txn = true ∧
    AtStep (inRead 1 { Spi.reset with up := true } .high) .read 1 ∧ ready0.mclk.settled = true ∧
    (inRead 1 { Spi.reset with up := true } .high).cfg.sharedBus = false ∧
    AtStep (claiming [true]) .read 1 ∧ (claiming [true]).cfg.sharedBus = true ∧
    (claiming [true]).env.drawClaim.1 = true ∧ AtStep (claiming [false]) .read 1 ∧
    (claiming [false]).env.drawClaim.1 = false ∧ (claiming [false]).spi.up = true ∧
    (claiming [false]).spi.txn = false := by unfold AtStep; decide

theorem test_witness_CsAssertEffect :
    AtStep (inRead 2 openSpi .low) .read 2 ∧ (inRead 2 openSpi .low).cs.lvl ≠ some .high ∧
    AtStep (inRead 2 openSpi .high) .read 2 ∧ openSpi.txn = true ∧
    (inRead 2 openSpi .high).cs = { dir := .out, lvl := some .high } := by unfold AtStep; decide

/-- A READ before U_XFER on a bus that may hang, with the next hang draws. -/
def hanging (draws : List Bool) : State :=
  { withCfg (inRead 3 openSpi .low) { Config.default with busMayHang := true } with
    env := { Env.reset with hangIn := draws } }

/-- Rules R32 and R96: a transfer that hangs has clocked nothing, so SCLK is LOW. -/
theorem test_hang_leaves_sclk_low :
    item (exec .uXfer (hanging [true])) (fun s => (s.hung, s.wire, pinView .sclk s)) =
      some (true, (hanging [true]).wire, .driven .low) := by decide

theorem test_witness_XferEffect :
    AtStep (inRead 3 closedSpi .low) .read 3 ∧ closedSpi.txn = false ∧
    AtStep (inRead 3 openSpi .low) .read 3 ∧ openSpi.txn = true ∧
    (inRead 3 openSpi .low).cs.lvl = some .low ∧ (inRead 3 openSpi .low).cfg.busMayHang = false ∧
    AtStep { inRead 3 openSpi .low with hung := true } .read 3 ∧
    AtStep (hanging [true]) .read 3 ∧ (hanging [true]).hung = false ∧
    (hanging [true]).env.drawHang.1 = true ∧ (hanging [false]).env.drawHang.1 = false := by
  unfold AtStep; decide

theorem test_witness_CsDeassertEffect :
    AtStep (inRead 4 closedSpi .low) .read 4 ∧ closedSpi.txn = false ∧
    AtStep (inRead 4 openSpi .low) .read 4 ∧ openSpi.txn = true ∧
    (inRead 4 openSpi .low).cs.lvl = some .low := by unfold AtStep; decide

theorem test_witness_TxnEndEffect :
    AtStep (inRead 5 openSpi .low) .read 5 ∧ (inRead 5 openSpi .low).cs.lvl ≠ some .high ∧
    AtStep (inRead 5 openSpi .high) .read 5 ∧ (inRead 5 openSpi .high).cs.lvl = some .high := by
  unfold AtStep; decide

theorem test_witness_DecodeStepEffect :
    AtStep { inRead 6 closedSpi .high with rx := (cells 0 s2).take 26 } .read 6 ∧
    Memory.read ((cells 0 s2).take 26) 26 = none ∧
    AtStep { inRead 6 closedSpi .high with rx := cells 0 s2 } .read 6 ∧ s2.length = 27 ∧
    ∀ i < 27, (cells 0 s2).read i = s2[i]? := by unfold AtStep; decide

theorem test_witness_BusReleaseEffect :
    AtStep { ready0 with upc := .running .destroy 0 } .destroy 0 ∧
    AtStep { State.reset with upc := .running .destroy 0 } .destroy 0 := by unfold AtStep; decide

theorem test_witness_ByteExchange :
    ({ Env.reset with misoIn := bitsOfByte 0xA5#8 ++ [true] } : Env).misoIn = bitsOfByte 0xA5#8 ++ [true] ∧
    (bitsOfByte 0xA5#8).length = 8 := by decide

theorem test_witness_StreamBitPlaces :
    ({ Env.reset with misoIn := s2.flatMap bitsOfByte ++ [] } : Env).misoIn = s2.flatMap bitsOfByte ++ [] ∧
    (s2.flatMap bitsOfByte).length = 216 := by decide +kernel

theorem test_witness_TransmitAllZero :
    WireEvent.sclkRise .low ∈ (xbytes 1 { Env.reset with misoIn := bitsOfByte 0xA5#8 }).2.1 := by decide

theorem test_witness_SharedBusHold :
    AtStep (claiming [false]) .read 1 ∧ (claiming [false]).env.claimIn = List.replicate 0 true ++ [false] ∧
    AtStep (claiming [true, true, false]) .read 1 ∧ (claiming [true, true, false]).host.resetReq = false ∧
    (claiming [true, true, false]).cfg.sharedBus = true ∧ (claiming [true, true, false]).spi.up = true ∧
    (claiming [true, true, false]).mclk.settled = true ∧ (claiming [true, true, false]).spi.txn = false ∧
    (claiming [true, true, false]).env.claimIn = List.replicate 2 true ++ [false] := by unfold AtStep; decide

theorem test_witness_PollingEndsAtLow :
    AtBoundary (sampling [.low]) ∧ (sampling [.low]).env.drdyIn = List.replicate 0 .high ++ [.low] ∧
    AtBoundary (sampling [.high, .high, .low]) ∧ (sampling [.high, .high, .low]).host.resetReq = false ∧
    (sampling [.high, .high, .low]).lc = .init ∧ (sampling [.high, .high, .low]).drdy = .input ∧
    (sampling [.high, .high, .low]).env.drdyIn = List.replicate 2 .high ++ [.low] := by
  unfold AtBoundary; decide

theorem test_witness_DecodeFields : 27 ≤ s2.length := by decide

/-- Two buffers that agree in channel 7 and in the status, and nowhere else. -/
theorem test_witness_LanesAreIndependent :
    27 ≤ s2.length ∧ 27 ≤ (s2.take 3 ++ List.replicate 21 0x11#8 ++ s2.drop 24).length ∧
    (∀ j < 3, s2[24 + j]? = (s2.take 3 ++ List.replicate 21 0x11#8 ++ s2.drop 24)[24 + j]? ∧
      s2[j]? = (s2.take 3 ++ List.replicate 21 0x11#8 ++ s2.drop 24)[j]?) := by decide

/-- The round trip of 95_test_vectors.md (W2): -2^23 in channel 5 among bytes AA, and 2^23 - 1 in channel 7. -/
theorem test_witness_CodeRoundTrip :
    (List.replicate 18 0xAA#8 ++ [0x80#8, 0x00#8, 0x00#8] ++ List.replicate 6 0xAA#8).length = 27 ∧
    ((List.replicate 18 0xAA#8 ++ [0x80#8, 0x00#8, 0x00#8] ++ List.replicate 6 0xAA#8).drop (3 + 3 * 5)).take 3 =
      encodeField (BitVec.ofInt 24 (-8388608)) ∧
    ((List.replicate 24 0xAA#8 ++ [0x7F#8, 0xFF#8, 0xFF#8]).drop (3 + 3 * 7)).take 3 =
      encodeField (BitVec.ofInt 24 8388607) := by decide

/-- A tie in each format (2^24 + 1 and 2^53 + 1 units), and a neighbour. -/
theorem test_witness_RoundsToNearestEven :
    binary32.roundUnits 16777217 1 < binary32.infinity ∧ 8388609 < binary32.infinity ∧
    binary64.roundUnits 9007199254740993 1 < binary64.infinity ∧ 1 < binary64.infinity := by decide +kernel

theorem test_witness_ConversionProperties :
    (1#32 : Word) ≠ 0#32 ∧ (1#32 : Word) ≠ 0x80000000#32 ∧ 31 ≤ 31 ∧ 0 ≤ 2 ^ 31 ∧ 2 ^ 31 ≤ 2 ^ 31 := by decide

theorem test_witness_ConversionsStayNormal : 1 ≤ 1 ∧ 1 ≤ 2 ^ 31 ∧ 2 ^ 24 ≤ 2 ^ 24 := by decide

/-! ### States with the invariant, reset apart -/

theorem test_inv_boundary (h : HostPort) (e : Env) : Inv { ready0 with host := h, env := e } := by
  constructor <;> simp [ready0, State.reset, State.construct, Memory.wf, Memory.wfFrom, Mclk.legal, mclkRunning,
    Spi.legal, Spi.reset, FrameOut.legal, FrameOut.reset, inTransaction, inCriticalSection, fMclk, pwmResBits,
    pwmDuty, Response.legal]

theorem test_inv_hung : Inv { hanging [] with hung := true } := by
  constructor <;> simp [hanging, withCfg, inRead, openSpi, ready0, State.reset, State.construct, Memory.wf,
    Memory.wfFrom, Mclk.legal, mclkRunning, Spi.legal, FrameOut.legal, FrameOut.reset, inTransaction,
    inCriticalSection, fMclk, fSclk, pwmResBits, pwmDuty, Response.legal, stepAt, Command.sequence, admitted]

/-- Before the last step of a READ, the frame just transferred newer than the last one read. -/
def readEnding : State :=
  { inRead 6 closedSpi .high with rx := cells 0 s2, env := { Env.reset with fseqXfer := 1 } }

theorem test_inv_readEnding : Inv readEnding := by
  constructor <;> simp [readEnding, inRead, openSpi, closedSpi, ready0, State.reset, State.construct,
    Mclk.legal, mclkRunning, Spi.legal, FrameOut.legal, FrameOut.reset, inTransaction,
    inCriticalSection, fMclk, fSclk, pwmResBits, pwmDuty, Response.legal, stepAt, Command.sequence, admitted,
    Env.reset]
  · decide
  · decide

/-- Before the last step of an INIT that returns OK. -/
def initEnding : State := { ready0 with lc := .uninit, upc := .running .init 5 }

theorem test_inv_initEnding : Inv initEnding := by
  constructor <;> simp [initEnding, ready0, State.reset, State.construct, Memory.wf, Memory.wfFrom, Mclk.legal,
    mclkRunning, Spi.legal, Spi.reset, FrameOut.legal, FrameOut.reset, inTransaction, inCriticalSection, fMclk,
    pwmResBits, pwmDuty, Response.legal, stepAt, Command.sequence, admitted]

/-- An INIT whose first step fails. -/
def initFailing : State := withCfg (inInit 0) noPins

theorem test_inv_initFailing : Inv initFailing := by
  constructor <;> simp [initFailing, withCfg, inInit, State.reset, State.construct, Memory.wf, Memory.wfFrom,
    Mclk.legal, Mclk.reset, Spi.legal, Spi.reset, FrameOut.legal, FrameOut.reset, inTransaction,
    stepAt, Command.sequence, admitted, Cs.reset, untouched]

/-- A DESTROY before its step. -/
def destroying : State := { ready0 with upc := .running .destroy 0 }

theorem test_inv_destroying : Inv destroying := by
  constructor <;> simp [destroying, ready0, State.reset, State.construct, Memory.wf, Memory.wfFrom, Mclk.legal,
    mclkRunning, Spi.legal, Spi.reset, FrameOut.legal, FrameOut.reset, inTransaction, inCriticalSection, fMclk,
    pwmResBits, pwmDuty, Response.legal, stepAt, Command.sequence, admitted]

theorem test_witness_ReadDeliversOneFrame :
    Inv (sampling [.low]) ∧ AtBoundary (sampling [.low]) ∧ (sampling [.low]).host.resetReq = false ∧
    (sampling [.low]).lc = .init ∧ (sampling [.low]).env.drawDrdy.1 = .low ∧
    (sampling [.low]).cfg.sharedBus = false ∧ (sampling [.low]).cfg.busMayHang = false :=
  ⟨test_inv_boundary _ _, ⟨rfl, rfl⟩, rfl, rfl, rfl, rfl, rfl⟩

theorem test_witness_HangHoldsForever :
    Inv { hanging [] with hung := true } ∧ ({ hanging [] with hung := true } : State).hung = true ∧
    ({ hanging [] with hung := true } : State).fault = none ∧
    ({ hanging [] with hung := true } : State).host.resetReq = false := ⟨test_inv_hung, rfl, rfl, rfl⟩

theorem test_witness_StepKeepsInv :
    Inv readEnding ∧ Inv initEnding ∧ (nextOf (step readEnding)).isSome = true ∧
    (nextOf (step initEnding)).isSome = true :=
  ⟨test_inv_readEnding, test_inv_initEnding, by decide +kernel, by decide⟩

theorem test_witness_RunsNeverGetStuck :
    Inv readEnding ∧ readEnding.fault = none ∧ readEnding.upc ≠ .idle ∧ Inv (sent [0x03#8]) :=
  ⟨test_inv_readEnding, rfl, by decide, test_inv_boundary _ _⟩

theorem test_witness_BoundaryInvariants :
    Inv (sent []) ∧ AtBoundary (sent []) ∧ (sent []).spi.up = true ∧ (sent []).cs.dir = .out ∧
    (sent []).mclk.run = true := ⟨test_inv_boundary _ _, ⟨rfl, rfl⟩, rfl, rfl, rfl⟩

theorem test_witness_LifecycleTransitions :
    Inv initEnding ∧ initEnding.lc = .uninit ∧ item (step initEnding) (·.lc) = some .init ∧
    Inv initFailing ∧ initFailing.lc = .uninit ∧ item (step initFailing) (·.lc) = some .failed ∧
    Inv destroying ∧ destroying.lc = .init ∧ item (step destroying) (·.lc) = some .destroyed :=
  ⟨test_inv_initEnding, rfl, by decide, test_inv_initFailing, rfl, by decide, test_inv_destroying, rfl, by decide⟩

theorem test_witness_ClockNeverStops :
    destroying.mclk.legal ∧ destroying.mclk.run = true ∧ destroying.host.resetReq = false ∧
    (nextOf (step destroying)).isSome = true := by unfold Mclk.legal; decide

theorem test_witness_ClockWaveform : ready0.mclk.legal ∧ ready0.mclk.run = true := by
  unfold Mclk.legal; decide

theorem test_witness_ConfigurationIsFixed : (nextOf (step destroying)).isSome = true := by decide

theorem test_witness_FrameOutWrittenByReadOnly :
    readEnding.host.resetReq = false ∧ readEnding.frameOut.valid = false ∧
    item (step readEnding) (·.frameOut.valid) = some true := by decide +kernel

theorem test_witness_WhoTouchesBufferAndPins :
    (nextOf (exec .uBusRelease destroying)).isSome = true ∧ Instr.uBusRelease ≠ .uXfer ∧
    (nextOf (exec .uCsAssert (inRead 2 openSpi .high))).isSome = true ∧ Instr.uCsAssert ≠ .uXfer ∧
    (nextOf (exec .uXfer { inRead 3 openSpi .low with
      env := { Env.reset with misoIn := s2.flatMap bitsOfByte } })).isSome = true ∧ Instr.uXfer ≠ .uCsInit ∧
    Instr.uXfer ≠ .uCsAssert ∧ Instr.uXfer ≠ .uCsDeassert := by decide +kernel

theorem test_witness_OnlySampleReadsDrdy :
    Instr.uTxnBegin ≠ .uSampleDrdy ∧
    (nextOf (exec .uTxnBegin (inRead 1 { Spi.reset with up := true } .high))).isSome = true := by decide

theorem test_witness_FrameNumbersDoNotDecrease :
    Inv readEnding ∧ readEnding.env.fseqRead = 0 ∧ item (step readEnding) (·.env.fseqRead) = some 1 :=
  ⟨test_inv_readEnding, rfl, by decide +kernel⟩

end Sys2Proof.Tests
end

namespace Sys2Proof.Machine

/-! ## The two frames of the meanings -/

/-- A host command issued while a command executes (rules R141 and R152). -/
theorem hostCommand_running {c' c : Command} {k : Fin 8} {s : State} {body : State → Out}
    (hf : s.fault = none) (hu : s.upc = .running c k) :
    hostCommand c' s body = .refused .concurrentCommand := by
  simp [hostCommand, hf, hu]

/-- A micro-operation issued elsewhere than at its own step (rule R141, log 8). -/
theorem microOp_elsewhere {i : Instr} {s : State} {body : Command → Fin 8 → Out} {c : Command}
    {k : Fin 8} (hf : s.fault = none) (hu : s.upc = .running c k) (hi : stepAt c k ≠ some i) :
    microOp i s body = .refused .concurrentCommand := by
  simp [microOp, hf, hu, hi]

/-- Bit 7 of the opcode tells which frame a meaning has (rules R58 to R60): a host command's, under its own
opcode, or a micro-operation's. -/
theorem exec_eq_hostCommand_or_microOp (i : Instr) (s : State) :
    (isMicroOpcode (opcode i) = false ∧
      ∃ c body, opcode i = c.opcode ∧ exec i s = hostCommand c s body) ∨
    (isMicroOpcode (opcode i) = true ∧ ∃ body, exec i s = microOp i s body) := by
  cases i with
  | init => exact .inl ⟨rfl, .init, _, rfl, by rw [exec, execInit]⟩
  | ready => exact .inl ⟨rfl, .ready, _, rfl, rfl⟩
  | read => exact .inl ⟨rfl, .read, _, rfl, rfl⟩
  | decode buf =>
    exact .inl ⟨by simp [isMicroOpcode, opcode], .decode, _, rfl, by rw [exec, execDecode]⟩
  | cvtV code => exact .inl ⟨by simp [isMicroOpcode, opcode], .cvtV, _, rfl, rfl⟩
  | cvtMv code => exact .inl ⟨by simp [isMicroOpcode, opcode], .cvtMv, _, rfl, rfl⟩
  | destroy => exact .inl ⟨rfl, .destroy, _, rfl, rfl⟩
  | uMclkStart => exact .inr ⟨rfl, _, rfl⟩
  | uWaitStab => exact .inr ⟨rfl, _, rfl⟩
  | uCsInit => exact .inr ⟨rfl, _, rfl⟩
  | uDrdyInit => exact .inr ⟨rfl, _, rfl⟩
  | uBusUp => exact .inr ⟨rfl, _, rfl⟩
  | uSampleDrdy => exact .inr ⟨rfl, _, rfl⟩
  | uTxnBegin => exact .inr ⟨rfl, _, rfl⟩
  | uCsAssert => exact .inr ⟨rfl, _, rfl⟩
  | uXfer => exact .inr ⟨rfl, _, rfl⟩
  | uCsDeassert => exact .inr ⟨rfl, _, rfl⟩
  | uTxnEnd => exact .inr ⟨rfl, _, rfl⟩
  | uDecode => exact .inr ⟨rfl, _, rfl⟩
  | uBusRelease => exact .inr ⟨rfl, _, rfl⟩

/-- Settles O10: either frame refuses, since the instruction is not the sequencer's current one. -/
theorem concurrentCommandsRefused : Obligations.ConcurrentCommandsRefused := by
  rintro s i c k ⟨hf, hu⟩ hi
  obtain ⟨-, c', body, -, hexec⟩ | ⟨-, body, hexec⟩ := exec_eq_hostCommand_or_microOp i s
  · rw [hexec, hostCommand_running hf hu]
  · rw [hexec, microOp_elsewhere hf hu hi]

end Sys2Proof.Machine

namespace Sys2Proof.Machine

/-! ## U_WAIT_STAB (rule R76) -/

/-- Waiting while the clock stands still writes SETTLED with the value it holds. -/
theorem settle_if_running (s : State) :
    (if s.mclk.run then s.setMclk { s.mclk with settled := true } else s) =
      s.setMclk { s.mclk with settled := s.mclk.run || s.mclk.settled } := by
  split_ifs with hrun
  · simp [hrun]
  · have hkeep : (s.mclk.run || s.mclk.settled) = s.mclk.settled := by simp [hrun]
    rw [hkeep]
    rfl

/-- At a step that holds it, U_WAIT_STAB writes SETTLED and goes on, whatever MCLK.RUN is. -/
theorem exec_uWaitStab_at {c : Command} {k : Fin 8} {s : State} (hs : AtStep s c k)
    (hi : stepAt c k = some .uWaitStab) :
    exec .uWaitStab s =
      moveOn c k (s.setMclk { s.mclk with settled := s.mclk.run || s.mclk.settled }) := by
  obtain ⟨hf, hu⟩ := hs
  rw [exec, execUWaitStab, microOp_at hf hu hi, settle_if_running]

/-- INIT ends with OK and LC INIT (rules R18 and R122). -/
theorem complete_init (s : State) :
    complete .init s = .next { ended s .ok .none with lc := .init } := rfl

/-- Settles O23: step 1 has a step after it, and step 5 is the last of INIT's sequence. -/
theorem waitStabEffect : Obligations.WaitStabEffect := by
  intro s
  constructor
  · intro hs
    rw [exec_uWaitStab_at hs rfl, moveOn_mid (by decide)]
    rfl
  · intro hs
    rw [exec_uWaitStab_at hs rfl, moveOn_last (by decide), complete_init]
    rfl

end Sys2Proof.Machine

namespace Sys2Proof.Machine

/-! ## Preconditions, and the moves that end or continue a sequence -/

/-- A precondition that fails takes F_WRONG_STATE and nothing else (rule R130). -/
theorem require_of_not {p : Bool} {c : Command} {s : State} {body : Out} (h : ¬ p = true) :
    require p c s body = .next (faulted s .wrongState c.opcode) := by
  rw [require, if_neg h]
  rfl

/-- A precondition that holds leaves the body to decide. -/
theorem require_of {p : Bool} {c : Command} {s : State} {body : Out} (h : p = true) :
    require p c s body = body := if_pos h

/-- An error result inside INIT fails it (rule R122). -/
theorem returnError_init (code : ResultCode) (s : State) :
    returnError .init code s = .next (initFailed s code) := rfl

/-- READ ends with OK by delivering TMP (rule R124); the frame number moves up (log 11). -/
theorem complete_read {s : State} {f : Frame} (h : s.tmp = some f) :
    complete .read s = .next { ended s .ok (.frame f) with
      frameOut := { valid := true, status := some f.status, ch := some f.ch }
      env := { s.env with fseqRead := s.env.fseqXfer } } := by
  simp only [complete, h]
  rfl

/-- DESTROY ends with OK and LC DESTROYED (rules R18 and R125). -/
theorem complete_destroy (s : State) :
    complete .destroy s = .next { ended s .ok .none with lc := .destroyed } := rfl

end Sys2Proof.Machine

namespace Sys2Proof.Machine

/-! ## What each micro-operation of the bus does at a step that holds it -/

section
variable {s : State} {c : Command} {k : Fin 8}

theorem exec_uCsInit_at (hs : AtStep s c k) (hi : stepAt c k = some .uCsInit) :
    exec .uCsInit s =
      if !s.cfg.pinValid s.cfg.pins.cs then returnError c .eInvalidPin s
      else moveOn c k ((s.setCs { s.cs with dir := .out }).driveCs .high) := by
  rw [exec, execUCsInit, microOp_at hs.1 hs.2 hi]

theorem exec_uDrdyInit_at (hs : AtStep s c k) (hi : stepAt c k = some .uDrdyInit) :
    exec .uDrdyInit s =
      if !s.cfg.pinValid s.cfg.pins.drdy then returnError c .eInvalidPin s
      else moveOn c k (s.setDrdy .input) := by
  rw [exec, execUDrdyInit, microOp_at hs.1 hs.2 hi]

theorem exec_uBusUp_at (hs : AtStep s c k) (hi : stepAt c k = some .uBusUp) :
    exec .uBusUp s =
      if !busPinsValid s.cfg then returnError c .eInvalidPin s
      else if !s.cfg.busAvailable then returnError c .eBusCfg s
      else moveOn c k (s.setSpi { s.spi with up := true }) := by
  rw [exec, execUBusUp, microOp_at hs.1 hs.2 hi]

theorem exec_uSampleDrdy_at (hs : AtStep s c k) (hi : stepAt c k = some .uSampleDrdy) :
    exec .uSampleDrdy s =
      require (decide (s.drdy = .input)) c s
        (afterSample c k (readyOf s.env.drawDrdy.1) (s.setEnv s.env.drawDrdy.2)) := by
  rw [exec, execUSampleDrdy, microOp_at hs.1 hs.2 hi]

theorem exec_uTxnBegin_at (hs : AtStep s c k) (hi : stepAt c k = some .uTxnBegin) :
    exec .uTxnBegin s =
      require (s.spi.up && s.mclk.settled && !s.spi.txn) c s
        (if s.cfg.sharedBus then
          if s.env.drawClaim.1 then .next (s.setEnv s.env.drawClaim.2)
          else moveOn c k ((s.setEnv s.env.drawClaim.2).setSpi s.spi.begun)
        else moveOn c k (s.setSpi s.spi.begun)) := by
  rw [exec, execUTxnBegin, microOp_at hs.1 hs.2 hi]

theorem exec_uCsAssert_at (hs : AtStep s c k) (hi : stepAt c k = some .uCsAssert) :
    exec .uCsAssert s =
      require (s.spi.txn && decide (s.cs.dir = .out) && decide (s.cs.lvl = some .high)) c s
        (moveOn c k (s.driveCs .low)) := by
  rw [exec, execUCsAssert, microOp_at hs.1 hs.2 hi]

theorem exec_uXfer_at (hs : AtStep s c k) (hi : stepAt c k = some .uXfer) :
    exec .uXfer s =
      require (s.spi.txn && decide (s.cs.lvl = some .low)) c s
        (if s.hung then .next s
        else if s.cfg.busMayHang then
          if s.env.drawHang.1 then .next ((s.setEnv s.env.drawHang.2).setHung true)
          else transferOn c k (s.setEnv s.env.drawHang.2)
        else transferOn c k s) := by
  rw [exec, execUXfer, microOp_at hs.1 hs.2 hi]

theorem exec_uCsDeassert_at (hs : AtStep s c k) (hi : stepAt c k = some .uCsDeassert) :
    exec .uCsDeassert s =
      require (s.spi.txn && decide (s.cs.lvl = some .low)) c s (moveOn c k (s.driveCs .high)) := by
  rw [exec, execUCsDeassert, microOp_at hs.1 hs.2 hi]

theorem exec_uTxnEnd_at (hs : AtStep s c k) (hi : stepAt c k = some .uTxnEnd) :
    exec .uTxnEnd s =
      require (s.spi.txn && decide (s.cs.lvl = some .high)) c s
        (moveOn c k (s.setSpi { s.spi with txn := false, claim := false })) := by
  rw [exec, execUTxnEnd, microOp_at hs.1 hs.2 hi]

/-- With every cell of RX written, U_DECODE writes TMP and goes on (rule R112). -/
theorem exec_uDecode_at {b : List Byte} (hs : AtStep s c k) (hi : stepAt c k = some .uDecode)
    (hb : memReadAll s.rx 0 frameLen = some b) :
    exec .uDecode s = moveOn c k (s.setTmp (some (decodeFn b))) := by
  simp only [exec, execUDecode, microOp_at hs.1 hs.2 hi, hb]

/-- A bus that is down is written with the value it holds. -/
theorem exec_uBusRelease_at (hs : AtStep s c k) (hi : stepAt c k = some .uBusRelease) :
    exec .uBusRelease s = moveOn c k (s.setSpi { s.spi with up := false }) := by
  rw [exec, execUBusRelease, microOp_at hs.1 hs.2 hi]
  split_ifs with hup
  · rfl
  · rw [← Bool.eq_false_of_not_eq_true hup]
    rfl

end

end Sys2Proof.Machine

namespace Sys2Proof.Machine

/-! ## The steps of a READ that succeeds -/

section
variable {s : State}

/-- A sample that reads LOW lets READ go on (rules R90 and R124). -/
theorem exec_uSampleDrdy_read_low (hs : AtStep s .read 0) (hin : s.drdy = .input)
    (hlow : s.env.drawDrdy.1 = .low) :
    exec .uSampleDrdy s = .next { s with env := s.env.drawDrdy.2, upc := .running .read 1 } := by
  rw [exec_uSampleDrdy_at hs rfl, require_of (decide_eq_true hin), hlow]
  rfl

/-- On a bus that is not shared the claim is taken at once (rule R93). -/
theorem exec_uTxnBegin_unshared (hs : AtStep s .read 1) (hup : s.spi.up = true)
    (hset : s.mclk.settled = true) (htxn : s.spi.txn = false) (hsh : s.cfg.sharedBus = false) :
    exec .uTxnBegin s = .next { s with spi := s.spi.begun, upc := .running .read 2 } := by
  rw [exec_uTxnBegin_at hs rfl, require_of (by simp [hup, hset, htxn]), hsh]
  rfl

/-- Chip-select goes LOW (rule R95). -/
theorem exec_uCsAssert_read (hs : AtStep s .read 2) (htxn : s.spi.txn = true)
    (hdir : s.cs.dir = .out) (hlvl : s.cs.lvl = some .high) :
    exec .uCsAssert s = .next { s with
      cs := { dir := .out, lvl := some .low }, wire := s.wire ++ [.cs .low],
      upc := .running .read 3 } := by
  rw [exec_uCsAssert_at hs rfl, require_of (by simp [htxn, hdir, hlvl]), moveOn_mid (by decide), ← hdir]
  rfl

/-- The transfer, cell by cell: the 27 bytes of the exchange in order of arrival, no other cell, the
edges on the pins and the draws of the environment (rules R96 and R97). -/
theorem transferOn_cells (c : Command) (k : Fin 8) (s : State) :
    ∃ m : Memory, (∀ i < 27, m.read i = (xbytes 27 s.env.drawFseq).1[i]?) ∧
      (∀ i, 27 ≤ i → m.read i = s.rx.read i) ∧
      transferOn c k s = moveOn c k { s with
        rx := m, wire := s.wire ++ (xbytes 27 s.env.drawFseq).2.1, env := (xbytes 27 s.env.drawFseq).2.2 } := by
  obtain ⟨m, hm, htransfer⟩ := transferOn_eq c k s
  have hcell := memWriteAll_read _ s.rx m 0 hm
  rw [xbytes_length, Nat.zero_add] at hcell
  refine ⟨m, fun i hi => ?_, fun i hi => ?_, htransfer⟩
  · rw [hcell, if_pos ⟨i.zero_le, hi⟩]
    rfl
  · rw [hcell, if_neg (fun h => Nat.not_lt.mpr hi h.2)]

/-- Where the bus cannot hang, U_XFER transfers (rule R96). -/
theorem exec_uXfer_read (hs : AtStep s .read 3) (htxn : s.spi.txn = true)
    (hlvl : s.cs.lvl = some .low) (hhung : s.hung = false) (hmay : s.cfg.busMayHang = false) :
    ∃ m : Memory, (∀ i < 27, m.read i = (xbytes 27 s.env.drawFseq).1[i]?) ∧
      (∀ i, 27 ≤ i → m.read i = s.rx.read i) ∧
      exec .uXfer s = .next { s with
        rx := m, wire := s.wire ++ (xbytes 27 s.env.drawFseq).2.1,
        env := (xbytes 27 s.env.drawFseq).2.2, upc := .running .read 4 } := by
  obtain ⟨m, hcell, hrest, htransfer⟩ := transferOn_cells .read 3 s
  refine ⟨m, hcell, hrest, ?_⟩
  rw [exec_uXfer_at hs rfl, require_of (by simp [htxn, hlvl]), if_neg (by simp [hhung]),
    if_neg (by simp [hmay]), htransfer, moveOn_mid (by decide)]
  rfl

/-- Chip-select goes HIGH (rule R100). -/
theorem exec_uCsDeassert_read (hs : AtStep s .read 4) (htxn : s.spi.txn = true)
    (hlvl : s.cs.lvl = some .low) :
    exec .uCsDeassert s = .next { s with
      cs := { s.cs with lvl := some .high }, wire := s.wire ++ [.cs .high],
      upc := .running .read 5 } := by
  rw [exec_uCsDeassert_at hs rfl, require_of (by simp [htxn, hlvl])]
  rfl

/-- The claim is released and the mode fields stay (rule R101). -/
theorem exec_uTxnEnd_read (hs : AtStep s .read 5) (htxn : s.spi.txn = true)
    (hlvl : s.cs.lvl = some .high) :
    exec .uTxnEnd s = .next { s with
      spi := { s.spi with txn := false, claim := false }, upc := .running .read 6 } := by
  rw [exec_uTxnEnd_at hs rfl, require_of (by simp [htxn, hlvl])]
  rfl

/-- The last step decodes the 27 bytes of RX and ends the READ with the frame (rules R112 and R124). -/
theorem exec_uDecode_read {b : List Byte} (hs : AtStep s .read 6) (hlen : b.length = 27)
    (hcell : ∀ i < 27, s.rx.read i = b[i]?) :
    exec .uDecode s = .next { ended s .ok (.frame (decodeFn b)) with
      tmp := some (decodeFn b)
      frameOut := { valid := true, status := some (decodeFn b).status, ch := some (decodeFn b).ch }
      env := { s.env with fseqRead := s.env.fseqXfer } } := by
  have hb : memReadAll s.rx 0 frameLen = some b :=
    (memReadAll_eq_some s.rx frameLen 0 b (by decide)).mpr
      ⟨hlen, fun j hj => by rw [Nat.zero_add]; exact hcell j hj⟩
  rw [exec_uDecode_at hs rfl hb, moveOn_last (by decide), complete_read rfl]
  rfl

end

end Sys2Proof.Machine

namespace Sys2Proof.Machine

/-! ## The effects of the bus micro-operations -/

/-- Settles O24: the branch on the validity of the pin. -/
theorem csInitEffect : Obligations.CsInitEffect := by
  intro s hs
  refine ⟨fun hbad => ?_, fun hok => ⟨_, ?_, rfl, rfl⟩⟩
  · rw [exec_uCsInit_at hs rfl, hbad]
    rfl
  · rw [exec_uCsInit_at hs rfl, hok]
    rfl

/-- Settles O25: the branch on the validity of the pin. -/
theorem drdyInitEffect : Obligations.DrdyInitEffect := by
  intro s hs
  refine ⟨fun hbad => ?_, fun hok => ?_⟩
  · rw [exec_uDrdyInit_at hs rfl, hbad]
    rfl
  · rw [exec_uDrdyInit_at hs rfl, hok]
    rfl

/-- Settles O26: the pins are checked before the bus. -/
theorem busUpEffect : Obligations.BusUpEffect := by
  intro s hs
  have hexec := exec_uBusUp_at hs rfl
  refine ⟨fun hbad => ?_, fun hsclk hmosi hmiso => ?_⟩
  · have hpins : busPinsValid s.cfg = false := by
      obtain h | h | h := hbad <;> simp [busPinsValid, h]
    rw [hexec, hpins]
    rfl
  · have hpins : busPinsValid s.cfg = true := by simp [busPinsValid, hsclk, hmosi, hmiso]
    rw [hpins] at hexec
    refine ⟨fun hbus => ?_, fun hbus => ⟨_, ?_, rfl, fun hcpol => ?_, rfl⟩⟩
    · rw [hexec, hbus]
      rfl
    · rw [hexec, hbus]
      rfl
    · simp [pinView, hcpol]

/-- Settles O27: the precondition, then the level, in each of the two commands that sample. -/
theorem sampleDrdyEffect : Obligations.SampleDrdyEffect := by
  intro s
  have hnot : s.drdy = .unconf → ¬ decide (s.drdy = .input) = true := fun h => by simp [h]
  refine ⟨fun hs => ⟨fun hun => ?_, fun hin => ?_⟩,
    fun hs => ⟨fun hun => ?_, exec_uSampleDrdy_read_low hs, fun hin hhigh => ?_⟩⟩
  · rw [exec_uSampleDrdy_at hs rfl, require_of_not (hnot hun)]
    rfl
  · rw [exec_uSampleDrdy_at hs rfl, require_of (decide_eq_true hin)]
    rfl
  · rw [exec_uSampleDrdy_at hs rfl, require_of_not (hnot hun)]
    rfl
  · rw [exec_uSampleDrdy_at hs rfl, require_of (decide_eq_true hin), hhigh]
    rfl

/-- Settles O29: the precondition, and the step it lets through. -/
theorem csAssertEffect : Obligations.CsAssertEffect := by
  intro s hs
  refine ⟨fun hn => ?_, fun htxn hdir hlvl => ⟨_, exec_uCsAssert_read hs htxn hdir hlvl, rfl, rfl⟩⟩
  rw [exec_uCsAssert_at hs rfl, require_of_not (by simpa [and_assoc] using hn)]
  rfl

/-- Settles O31: the precondition, and the step it lets through. -/
theorem csDeassertEffect : Obligations.CsDeassertEffect := by
  intro s hs
  refine ⟨fun hn => ?_,
    fun htxn hlvl => ⟨_, exec_uCsDeassert_read hs htxn hlvl, fun hdir => ?_, rfl⟩⟩
  · rw [exec_uCsDeassert_at hs rfl, require_of_not (by simpa using hn)]
    rfl
  · simp [pinView, hdir]

/-- Settles O32: the precondition, and the step it lets through. -/
theorem txnEndEffect : Obligations.TxnEndEffect := by
  intro s hs
  refine ⟨fun hn => ?_, exec_uTxnEnd_read hs⟩
  rw [exec_uTxnEnd_at hs rfl, require_of_not (by simpa using hn)]
  rfl

/-- Settles O34: the one step of DESTROY is its last. -/
theorem busReleaseEffect : Obligations.BusReleaseEffect := by
  intro s hs
  refine ⟨_, ?_, rfl, rfl, rfl⟩
  rw [exec_uBusRelease_at hs rfl, moveOn_last (by decide), complete_destroy]
  rfl

end Sys2Proof.Machine

namespace Sys2Proof.Machine

/-! ## One READ, from acceptance to the frame -/

/-- An exchange of bits drives SCLK and MOSI only (rule R97). -/
theorem cs_notMem_exchangeBits (t : Byte) (n : Nat) (e : Env) (l : Level) :
    WireEvent.cs l ∉ (exchangeBits t n e).1 := by
  induction n generalizing e with
  | zero => simp [exchangeBits]
  | succ n ih => simp [exchangeBits, ih]

/-- An exchange of bytes leaves chip-select alone (rules R97 and R98). -/
theorem cs_notMem_xbytes (n : Nat) (e : Env) (l : Level) : WireEvent.cs l ∉ (xbytes n e).2.1 := by
  induction n generalizing e with
  | zero => simp [xbytes]
  | succ n ih => simp [xbytes, xbyte, ih, cs_notMem_exchangeBits]

/-- A run whose first step is a micro-operation of the sequence goes on from what it answers. -/
theorem core_run_exec {n : Nat} {s t : State} {c : Command} {k : Fin 8} {i : Instr}
    (hr : s.host.resetReq = false) (hs : AtStep s c k) (hi : stepAt c k = some i)
    (h : exec i s = .next t) :
    Host.Core.run Sys2Proof.core (n + 1) s = Host.Core.run Sys2Proof.core n t :=
  core_run_next ((step_running hr hs.1 hs.2 hi).trans h)

/-- READ is accepted at every command boundary with LC INIT (rules R18, R124 and R131). -/
theorem exec_read_accepted {s : State} (hs : AtBoundary s) (hlc : s.lc = .init) :
    exec .read s = .next { s with upc := .running .read 0 } := by
  rw [exec, execRead, hostCommand_admitted hs.1 hs.2 (by rw [hlc]; rfl)]
  rfl

/-- What the preconditions of a READ's steps ask of a state between commands with LC INIT. -/
structure ReadReady (s : State) : Prop where
  busUp : s.spi.up = true
  settled : s.mclk.settled = true
  txn : s.spi.txn = false
  csDir : s.cs.dir = .out
  csLvl : s.cs.lvl = some .high
  drdy : s.drdy = .input
  hung : s.hung = false

/-- Rules R34 to R36, R23 and R104 give all of it in a state of a run. -/
theorem ReadReady.of_inv {s : State} (hinv : Inv s) (hs : AtBoundary s) (hlc : s.lc = .init) :
    ReadReady s := by
  have hup := hinv.upIff.mpr (.inl hlc)
  obtain ⟨hdir, hdrdy⟩ := hinv.initPins hlc
  refine ⟨hup, (hinv.upClock hup).2, ?_, hdir, ?_, hdrdy, Bool.eq_false_of_not_eq_true fun h => ?_⟩
  · rw [hinv.txnIff, hs.2]
    rfl
  · rw [hinv.csLevel, if_pos hdir, hs.2]
    rfl
  · have hrun := hinv.hungStep h
    rw [hs.2] at hrun
    cases hrun

/-- Chip-select is an output at HIGH. -/
theorem ReadReady.cs_eq {s : State} (h : ReadReady s) : s.cs = { dir := .out, lvl := some .high } := by
  rw [← h.csDir, ← h.csLvl]

/-- The steps up to the transfer: LOW is sampled, the bus is claimed, chip-select goes LOW. -/
theorem run_read_to_transfer {s : State} {n : Nat} (hready : ReadReady s) (hf : s.fault = none)
    (hr : s.host.resetReq = false) (hlow : s.env.drawDrdy.1 = .low) (hsh : s.cfg.sharedBus = false) :
    Host.Core.run Sys2Proof.core (n + 3) { s with upc := .running .read 0 } =
      Host.Core.run Sys2Proof.core n { s with
        env := s.env.drawDrdy.2, spi := s.spi.begun, cs := { dir := .out, lvl := some .low }
        wire := s.wire ++ [.cs .low], upc := .running .read 3 } :=
  calc Host.Core.run Sys2Proof.core (n + 3) { s with upc := .running .read 0 }
    _ = Host.Core.run Sys2Proof.core (n + 2) { s with
          env := s.env.drawDrdy.2, upc := .running .read 1 } :=
        core_run_exec hr ⟨hf, rfl⟩ rfl (exec_uSampleDrdy_read_low ⟨hf, rfl⟩ hready.drdy hlow)
    _ = Host.Core.run Sys2Proof.core (n + 1) { s with
          env := s.env.drawDrdy.2, spi := s.spi.begun, upc := .running .read 2 } :=
        core_run_exec hr ⟨hf, rfl⟩ rfl
          (exec_uTxnBegin_unshared ⟨hf, rfl⟩ hready.busUp hready.settled hready.txn hsh)
    _ = _ :=
        core_run_exec hr ⟨hf, rfl⟩ rfl (exec_uCsAssert_read ⟨hf, rfl⟩ rfl hready.csDir hready.csLvl)

/-- The steps after the transfer: chip-select goes HIGH, the claim is released, the frame is delivered. -/
theorem run_read_from_transfer {s : State} {b : List Byte} (hs : AtStep s .read 4)
    (hr : s.host.resetReq = false) (htxn : s.spi.txn = true) (hlvl : s.cs.lvl = some .low)
    (hlen : b.length = 27) (hcell : ∀ i < 27, s.rx.read i = b[i]?) :
    Host.Core.run Sys2Proof.core 3 s = .next { ended s .ok (.frame (decodeFn b)) with
      cs := { s.cs with lvl := some .high }
      wire := s.wire ++ [.cs .high]
      spi := { s.spi with txn := false, claim := false }
      tmp := some (decodeFn b)
      frameOut := { valid := true, status := some (decodeFn b).status, ch := some (decodeFn b).ch }
      env := { s.env with fseqRead := s.env.fseqXfer } } :=
  calc Host.Core.run Sys2Proof.core 3 s
    _ = Host.Core.run Sys2Proof.core 2 { s with
          cs := { s.cs with lvl := some .high }, wire := s.wire ++ [.cs .high]
          upc := .running .read 5 } :=
        core_run_exec hr hs rfl (exec_uCsDeassert_read hs htxn hlvl)
    _ = Host.Core.run Sys2Proof.core 1 { s with
          cs := { s.cs with lvl := some .high }, wire := s.wire ++ [.cs .high]
          spi := { s.spi with txn := false, claim := false }, upc := .running .read 6 } :=
        core_run_exec hr ⟨hs.1, rfl⟩ rfl (exec_uTxnEnd_read ⟨hs.1, rfl⟩ htxn rfl)
    _ = _ :=
        core_run_exec hr ⟨hs.1, rfl⟩ rfl (exec_uDecode_read ⟨hs.1, rfl⟩ hlen hcell)

/-- The seven steps of a READ that samples LOW, on a bus neither shared nor able to hang. -/
theorem run_read {s : State} (hready : ReadReady s) (hs : AtBoundary s) (hr : s.host.resetReq = false)
    (hlow : s.env.drawDrdy.1 = .low) (hsh : s.cfg.sharedBus = false) (hmay : s.cfg.busMayHang = false) :
    let x := xbytes 27 s.env.drawDrdy.2.drawFseq
    ∃ m : Memory, (∀ i < 27, m.read i = x.1[i]?) ∧ (∀ i, 27 ≤ i → m.read i = s.rx.read i) ∧
      Host.Core.run Sys2Proof.core 7 { s with upc := .running .read 0 } = .next { s with
        rx := m
        tmp := some (decodeFn x.1)
        frameOut := { valid := true, status := some (decodeFn x.1).status, ch := some (decodeFn x.1).ch }
        result := some { code := .ok, payload := .frame (decodeFn x.1) }
        wire := s.wire ++ [.cs .low] ++ x.2.1 ++ [.cs .high]
        spi := { s.spi.begun with txn := false, claim := false }
        env := { x.2.2 with fseqRead := x.2.2.fseqXfer } } := by
  intro x
  obtain ⟨hf, hu⟩ := hs
  obtain ⟨m, hcell, hrest, hxfer⟩ := exec_uXfer_read (s := { s with
    env := s.env.drawDrdy.2, spi := s.spi.begun, cs := { dir := .out, lvl := some .low }
    wire := s.wire ++ [.cs .low], upc := .running .read 3 }) ⟨hf, rfl⟩ rfl rfl hready.hung hmay
  refine ⟨m, hcell, hrest, ?_⟩
  calc Host.Core.run Sys2Proof.core 7 { s with upc := .running .read 0 }
    _ = Host.Core.run Sys2Proof.core 4 { s with
          env := s.env.drawDrdy.2, spi := s.spi.begun, cs := { dir := .out, lvl := some .low }
          wire := s.wire ++ [.cs .low], upc := .running .read 3 } :=
        run_read_to_transfer hready hf hr hlow hsh
    _ = Host.Core.run Sys2Proof.core 3 { s with
          rx := m, env := x.2.2, spi := s.spi.begun, cs := { dir := .out, lvl := some .low }
          wire := s.wire ++ [.cs .low] ++ x.2.1, upc := .running .read 4 } :=
        core_run_exec hr ⟨hf, rfl⟩ rfl hxfer
    _ = _ := run_read_from_transfer ⟨hf, rfl⟩ hr rfl rfl (xbytes_length 27 _) hcell
    _ = _ := by
      rw [hready.cs_eq, hu]
      rfl

/-- Settles O17: the invariant meets the preconditions of the seven steps, which `run_read` chains. -/
theorem readDeliversOneFrame : Obligations.ReadDeliversOneFrame := by
  refine ⟨fun s => exec_read_accepted, fun s hinv hs hr hlc hlow hsh hmay => ?_⟩
  exact ⟨xbytes_length 27 _, xbytes_edges_length 27 _, cs_notMem_xbytes 27 _,
    run_read (ReadReady.of_inv hinv hs hlc) hs hr hlow hsh hmay⟩

end Sys2Proof.Machine

namespace Sys2Proof.Machine

/-! ## The commands that end in the step that takes them: DECODE, CVT_V and CVT_MV -/

/-- Rule R131 admits a command without micro-operations (rule R120) until the lifecycle has ended. -/
theorem admitted_of_sequence_nil {c : Command} (hc : c.sequence = []) (lc : Lc) :
    admitted c lc = !decide (lc = .failed ∨ lc = .destroyed) := by
  cases c with
  | decode => cases lc <;> rfl
  | cvtV => cases lc <;> rfl
  | cvtMv => cases lc <;> rfl
  | init => cases hc
  | ready => cases hc
  | read => cases hc
  | destroy => cases hc

section
variable {c : Command} {s : State} {body : State → Out}

/-- After a failed INIT or a DESTROY a command without micro-operations takes F_WRONG_STATE, UPC at IDLE
(rules R130 and R131). -/
theorem hostCommand_of_ended_lifecycle (hs : AtBoundary s) (hc : c.sequence = [])
    (hlc : s.lc = .failed ∨ s.lc = .destroyed) :
    hostCommand c s body = .next (faulted s .wrongState c.opcode) := by
  have hadm : admitted c s.lc = false := by simp [admitted_of_sequence_nil hc, hlc]
  rw [hostCommand_not_admitted hs.1 hs.2 hadm]
  rfl

/-- Before INIT and after a successful one a command without micro-operations is accepted (rules R18 and
R131). -/
theorem hostCommand_of_live_lifecycle (hs : AtBoundary s) (hc : c.sequence = [])
    (hlc : s.lc = .uninit ∨ s.lc = .init) :
    hostCommand c s body = body { s with upc := .running c 0 } := by
  have hadm : admitted c s.lc = true := by
    obtain h | h := hlc <;> simp [admitted_of_sequence_nil hc, h]
  rw [hostCommand_admitted hs.1 hs.2 hadm]
  rfl

end

/-- Settles O19: admission, then the branch on the length of the operand. -/
theorem decodeCommandResult : Obligations.DecodeCommandResult := by
  intro s buf hs
  rw [exec, execDecode]
  refine ⟨hostCommand_of_ended_lifecycle hs rfl, fun hlc => ?_⟩
  rw [hostCommand_of_live_lifecycle hs rfl hlc]
  exact ⟨fun hshort => if_pos hshort, fun hlong => if_neg (Nat.not_lt.mpr hlong)⟩

/-- Settles O20: admission, and the rule's values by evaluation. -/
theorem voltsCommandResult : Obligations.VoltsCommandResult := by
  intro s c hs
  rw [exec, execCvtV]
  refine ⟨hostCommand_of_ended_lifecycle hs rfl, hostCommand_of_live_lifecycle hs rfl, ?_⟩
  decide +kernel

/-- Settles O21: admission, and the rule's values by evaluation. -/
theorem millivoltsCommandResult : Obligations.MillivoltsCommandResult := by
  intro s c hs
  rw [exec, execCvtMv]
  refine ⟨hostCommand_of_ended_lifecycle hs rfl, hostCommand_of_live_lifecycle hs rfl, ?_⟩
  decide +kernel

end Sys2Proof.Machine

namespace Sys2Proof.Machine

/-! ## U_DECODE on a receive buffer that is not full -/

/-- A cell without a value leaves the whole read without one. -/
theorem memReadAll_eq_none {m : Memory} {i n j : Nat} (hin : i + n ≤ frameLen) (hj : j < n)
    (hcell : m.read (i + j) = none) : memReadAll m i n = none := by
  refine Option.eq_none_iff_forall_ne_some.mpr fun b hb => ?_
  obtain ⟨hlen, hread⟩ := (memReadAll_eq_some m n i b hin).mp hb
  have hend : b.length ≤ j := List.getElem?_eq_none_iff.mp ((hread j hj).symm.trans hcell)
  omega

/-- With a cell of RX unwritten, U_DECODE faults at a step that holds it (rules R112 and R130). -/
theorem exec_uDecode_unwritten {s : State} {c : Command} {k : Fin 8} {i : Nat} (hs : AtStep s c k)
    (hk : stepAt c k = some .uDecode) (hi : i < frameLen) (hcell : s.rx.read i = none) :
    exec .uDecode s = .next (faulted s .wrongState c.opcode) := by
  have hnone : memReadAll s.rx 0 frameLen = none :=
    memReadAll_eq_none (by decide) hi (by rw [Nat.zero_add]; exact hcell)
  simp only [exec, execUDecode, microOp_at hs.1 hs.2 hk, hnone]
  rfl

/-- Settles O33: either a cell holds no value, or the 27 bytes of RX are decoded and READ ends. -/
theorem decodeStepEffect : Obligations.DecodeStepEffect := by
  intro s hs
  refine ⟨fun ⟨i, hi, hcell⟩ => ?_, fun b hlen hcell => exec_uDecode_read hs hlen hcell⟩
  exact exec_uDecode_unwritten hs rfl hi hcell

end Sys2Proof.Machine

namespace Sys2Proof.Machine

/-! ## Sign extension (rule R107) -/

/-- The model's sign extension is that of two's complement. -/
theorem signExtend24_eq_signExtend (c : Field24) : signExtend24 c = c.signExtend 32 := by
  have hmsb : c.getLsbD 23 = c.msb := c.msb_eq_getLsbD_last.symm
  rw [signExtend24, hmsb, BitVec.signExtend_eq_append_of_le (by decide)]
  rfl

/-- Settles O41: the two parts of the word, and the value that sign extension keeps. -/
theorem signExtension : Obligations.SignExtension := by
  intro c
  refine ⟨?_, ?_, ?_⟩
  · rw [signExtend24, BitVec.extractLsb'_append_eq_left]
  · rw [signExtend24, BitVec.extractLsb'_append_eq_right]
  · rw [signExtend24_eq_signExtend, BitVec.toInt_signExtend_of_le (by decide),
      BitVec.toInt_eq_toNat_cond]
    split_ifs <;> omega

end Sys2Proof.Machine

namespace Sys2Proof.Machine

/-! ## The fields of a decoded frame (rules R106 and R108) -/

/-- The shifts and ORs of rule R106 put the three bytes side by side. -/
theorem assemble24_eq_append (b0 b1 b2 : Byte) : assemble24 b0 b1 b2 = b0 ++ b1 ++ b2 := by
  refine BitVec.eq_of_getLsbD_eq fun i hi => ?_
  rw [BitVec.getLsbD_append, BitVec.getLsbD_append]
  simp only [assemble24, BitVec.getLsbD_or, BitVec.getLsbD_shiftLeft, BitVec.truncate_eq_setWidth,
    BitVec.getLsbD_setWidth]
  -- bit `i` comes from `b2`, from `b1` or from `b0`; the other two shifted bytes have 0 there
  split_ifs with hb2 hb1 <;> grind

/-- A 24-bit field is the big-endian number of its bytes (rules R40 and R64). -/
theorem assemble24_toNat (b0 b1 b2 : Byte) :
    (assemble24 b0 b1 b2).toNat = b0.toNat * 65536 + b1.toNat * 256 + b2.toNat := by
  rw [assemble24_eq_append, BitVec.toNat_append, BitVec.toNat_append,
    ← Nat.shiftLeft_add_eq_or_of_lt b2.isLt, ← Nat.shiftLeft_add_eq_or_of_lt b1.isLt]
  omega

/-- Past the end of the buffer both sides are 0. -/
theorem byteAt_eq_getElem! (b : List Byte) (i : Nat) : byteAt b i = b[i]! := by
  rw [byteAt, List.getElem!_eq_getElem?_getD, List.getD_eq_getElem?_getD]
  rfl

theorem fieldAt_toNat (b : List Byte) (off : Nat) :
    (fieldAt b off).toNat = b[off]!.toNat * 65536 + b[off + 1]!.toNat * 256 + b[off + 2]!.toNat := by
  simp only [fieldAt, assemble24_toNat, byteAt_eq_getElem!]

theorem decodeFn_ch (b : List Byte) (k : Fin 8) : (decodeFn b).ch[k] = channel b k.val := by
  fin_cases k <;> rfl

/-- Settles O42: STATUS is the field at byte 0, and CH[k] extends the field at byte 3 + 3k. -/
theorem decodeFields : Obligations.DecodeFields := by
  intro b _
  refine ⟨fieldAt_toNat b 0, fun k => ?_⟩
  have hfield : (fieldAt b (channelOffset k)).toNat =
      b[3 + 3 * k.val]!.toNat * 65536 + b[4 + 3 * k.val]!.toNat * 256 + b[5 + 3 * k.val]!.toNat := by
    rw [fieldAt_toNat, channelOffset, Nat.add_right_comm 3 _ 1, Nat.add_right_comm 3 _ 2]
  rw [decodeFn_ch, channel, ← hfield, BitVec.ofNat_toNat, BitVec.setWidth_eq]

end Sys2Proof.Machine

namespace Sys2Proof.Machine

/-! ## The sequences of the commands (rule R120) -/

/-- A sequence ends at its length. -/
theorem stepAt_eq_none {c : Command} {k : Fin 8} (h : c.sequence.length ≤ k.val) : stepAt c k = none :=
  List.getElem?_eq_none h

/-- Settles O6: within a sequence the sequencer runs the table's entry, and past its length there is none. -/
theorem stepRunsSequences : Obligations.StepRunsSequences := by
  intro s hf hr
  have runs {c : Command} {k : Fin 8} {i : Instr} (hi : stepAt c k = some i) (hu : s.upc = .running c k) :
      step s = exec i s :=
    step_running hr hf hu hi
  refine ⟨runs rfl, runs rfl, runs rfl, runs rfl, runs rfl, runs rfl, -- INIT
    runs rfl, -- READY
    runs rfl, runs rfl, runs rfl, runs rfl, runs rfl, runs rfl, runs rfl, -- READ
    runs rfl, -- DESTROY
    stepAt_eq_none le_rfl, stepAt_eq_none (by decide), stepAt_eq_none le_rfl, fun k hk => ?_, fun k => ?_⟩
  · exact ⟨stepAt_eq_none hk, stepAt_eq_none hk⟩
  · have hk : 0 ≤ k.val := k.val.zero_le
    exact ⟨stepAt_eq_none hk, stepAt_eq_none hk, stepAt_eq_none hk⟩

end Sys2Proof.Machine

namespace Sys2Proof.Machine

/-! ## The lifecycle admission table (rule R131) -/

section
variable {c : Command} {s t : State} {body : State → Out}

/-- A next state without a fault is none that a fault leads to. -/
theorem next_ne_faulted {code : FaultCode} {opc : Byte} (ht : t.fault = none) :
    (.next t : Out) ≠ .next (faulted s code opc) := by
  intro h
  have hfault := congrArg State.fault (Host.Outcome.next.inj h)
  rw [ht] at hfault
  cases hfault

/-- FAULT records which fault was raised (rule R130). -/
theorem raiseFault_ne_faulted {code code' : FaultCode} {opc opc' : Byte} (hcode : code ≠ code') :
    raiseFault code opc t ≠ .next (faulted s code' opc') := by
  intro h
  have hfault := congrArg State.fault (Host.Outcome.next.inj h)
  exact hcode (congrArg FaultRecord.code (Option.some.inj hfault))

/-- A host command whose accepted body does not itself take F_WRONG_STATE takes it exactly where rule R131
does not admit it. -/
theorem hostCommand_wrongState_iff (hs : AtBoundary s)
    (hbody : body (s.setUpc (.running c 0)) ≠ .next (faulted s .wrongState c.opcode)) :
    hostCommand c s body = .next (faulted s .wrongState c.opcode) ↔ admitted c s.lc = false := by
  obtain ⟨hf, hu⟩ := hs
  constructor
  · intro h
    obtain ⟨-, -, ⟨-, hnext⟩ | ⟨hadm, -⟩⟩ := hostCommand_next h
    · exact absurd hnext hbody
    · exact hadm
  · intro hadm
    rw [hostCommand_not_admitted hf hu hadm]
    rfl

end

theorem admitted_init_eq_false_iff (lc : Lc) : admitted .init lc = false ↔ lc ≠ .uninit := by
  cases lc <;> decide

theorem admitted_ready_eq_false_iff (lc : Lc) : admitted .ready lc = false ↔ lc ≠ .init := by
  cases lc <;> decide

theorem admitted_read_eq_false_iff (lc : Lc) : admitted .read lc = false ↔ lc ≠ .init := by
  cases lc <;> decide

theorem admitted_destroy_eq_false_iff (lc : Lc) : admitted .destroy lc = false ↔ lc = .destroyed := by
  cases lc <;> decide

/-- The rows of DECODE, CVT_V and CVT_MV, the commands without micro-operations. -/
theorem admitted_eq_false_iff_of_sequence_nil {c : Command} (hc : c.sequence = []) (lc : Lc) :
    admitted c lc = false ↔ lc = .failed ∨ lc = .destroyed := by
  rw [admitted_of_sequence_nil hc, Bool.not_eq_false', decide_eq_true_iff]

/-- An accepted INIT goes on or takes F_PIN_CONFLICT (rule R122). -/
theorem exec_init_wrongState_iff {s : State} (hs : AtBoundary s) :
    exec .init s = .next (faulted s .wrongState 0x01#8) ↔ admitted .init s.lc = false := by
  rw [exec, execInit]
  refine hostCommand_wrongState_iff hs ?_
  split_ifs with hpins
  · exact raiseFault_ne_faulted (by decide)
  · exact next_ne_faulted hs.1

/-- An accepted DECODE ends or takes F_SHORT_BUFFER (rule R113). -/
theorem exec_decode_wrongState_iff {s : State} (hs : AtBoundary s) (buf : List Byte) :
    exec (.decode buf) s = .next (faulted s .wrongState 0x04#8) ↔ admitted .decode s.lc = false := by
  rw [exec, execDecode]
  refine hostCommand_wrongState_iff hs ?_
  split_ifs with hshort
  · exact raiseFault_ne_faulted (by decide)
  · exact next_ne_faulted hs.1

/-- Settles O12: no accepted command takes F_WRONG_STATE in its first step, so the table alone decides. -/
theorem lifecycleAdmission : Obligations.LifecycleAdmission := by
  intro s hs
  -- READY, READ, CVT_V, CVT_MV and DESTROY take no fault once accepted
  have accepted {t : State} {opc : Byte} (ht : t.fault = s.fault) :
      (.next t : Out) ≠ .next (faulted s .wrongState opc) := next_ne_faulted (ht.trans hs.1)
  refine ⟨?init, ?ready, ?read, fun buf => ?decode, fun code => ?cvtV, fun code => ?cvtMv, ?destroy⟩
  case init => exact (exec_init_wrongState_iff hs).trans (admitted_init_eq_false_iff s.lc)
  case ready =>
    exact Iff.trans (hostCommand_wrongState_iff hs (accepted rfl)) (admitted_ready_eq_false_iff s.lc)
  case read =>
    exact Iff.trans (hostCommand_wrongState_iff hs (accepted rfl)) (admitted_read_eq_false_iff s.lc)
  case decode =>
    exact (exec_decode_wrongState_iff hs buf).trans (admitted_eq_false_iff_of_sequence_nil rfl s.lc)
  case cvtV =>
    exact Iff.trans (hostCommand_wrongState_iff hs (accepted rfl))
      (admitted_eq_false_iff_of_sequence_nil rfl s.lc)
  case cvtMv =>
    exact Iff.trans (hostCommand_wrongState_iff hs (accepted rfl))
      (admitted_eq_false_iff_of_sequence_nil rfl s.lc)
  case destroy =>
    exact Iff.trans (hostCommand_wrongState_iff hs (accepted rfl)) (admitted_destroy_eq_false_iff s.lc)

end Sys2Proof.Machine

namespace Sys2Proof

/-! ## The decoder against the encoder (rules R58 to R60) -/

/-- The BUF operand's bytes decode to the buffer (rule R58). -/
theorem decodeBufOperand_operandBytes (buf rest : List Byte) (h : buf.length ≤ maxBufLen) :
    decodeBufOperand (operandBytes (.decode buf) ++ rest) = .instr (.decode buf) rest := by
  simp only [operandBytes, List.cons_append, decodeBufOperand, length_of_bytes buf.length h]
  rw [if_neg (by simp), List.take_left, List.drop_left]

/-- Settles O1: only the operands of DECODE, CVT_V and CVT_MV need an argument; the tables do the rest. -/
theorem decodeOfEncode : Obligations.DecodeOfEncode := by
  intro i rest hwf
  cases i with
  | decode buf => exact decodeBufOperand_operandBytes buf rest (of_decide_eq_true hwf)
  | cvtV code => exact decodeCodeOperand_wordBytes .cvtV code rest
  | cvtMv code => exact decodeCodeOperand_wordBytes .cvtMv code rest
  | _ => rfl

/-- The four bytes of a word made of four bytes are those. -/
theorem wordBytes_append (b0 b1 b2 b3 : Byte) : wordBytes (b0 ++ b1 ++ b2 ++ b3) = [b0, b1, b2, b3] := by
  simp only [wordBytes, List.cons.injEq, and_true]
  refine ⟨?_, ?_, ?_, ?_⟩ <;>
  · refine BitVec.eq_of_getLsbD_eq fun i hi => ?_
    simp only [BitVec.getLsbD_extractLsb', BitVec.getLsbD_append]
    grind

/-- Bytes that decode to an instruction with a CODE operand begin with that operand's bytes. -/
theorem decodeCodeOperand_eq_instr {mk : Word → Instr} {bytes rest : List Byte} {i : Instr}
    (h : decodeCodeOperand mk bytes = .instr i rest) : ∃ w, i = mk w ∧ wordBytes w ++ rest = bytes := by
  unfold decodeCodeOperand at h
  split at h
  · rename_i b0 b1 b2 b3 tail
    cases h
    exact ⟨_, rfl, by rw [wordBytes_append]; rfl⟩
  · cases h

/-- The two bytes of a length field made of two bytes are those. -/
theorem extractLsb'_bufLength (hi lo : Byte) :
    (BitVec.ofNat 16 (bufLength hi lo)).extractLsb' 8 8 = hi ∧
      (BitVec.ofNat 16 (bufLength hi lo)).extractLsb' 0 8 = lo := by
  rw [bufLength, BitVec.ofNat_toNat, BitVec.setWidth_eq]
  exact ⟨BitVec.extractLsb'_append_eq_left, BitVec.extractLsb'_append_eq_right⟩

/-- Bytes that decode to a DECODE begin with its operand's bytes, and the operand fits its length field. -/
theorem decodeBufOperand_eq_instr {bytes rest : List Byte} {i : Instr}
    (h : decodeBufOperand bytes = .instr i rest) :
    ∃ buf, i = .decode buf ∧ buf.length ≤ maxBufLen ∧ operandBytes (.decode buf) ++ rest = bytes := by
  unfold decodeBufOperand at h
  split at h
  · rename_i hi lo tail
    split_ifs at h with hshort
    cases h
    have hlen : (tail.take (bufLength hi lo)).length = bufLength hi lo := by
      rw [List.length_take, Nat.min_eq_left (Nat.le_of_not_lt hshort)]
    refine ⟨_, rfl, ?_, ?_⟩
    · rw [hlen]
      exact Nat.le_of_lt_succ (BitVec.isLt _)
    · simp only [operandBytes, hlen, extractLsb'_bufLength, List.cons_append, List.take_append_drop]
  · cases h

/-- Settles O2: the opcode is the instruction's, and the operand lemmas give the bytes after it. -/
theorem encodeOfDecode : Obligations.EncodeOfDecode := by
  intro bytes i rest h
  cases bytes with
  | nil => cases h
  | cons opc tail =>
    have hopc : ∀ n, opc.toNat = n → BitVec.ofNat 8 n = opc := fun n hn => by rw [← hn]; simp
    have hcode {mk : Word → Instr} (hop : ∀ w, opcode (mk w) = opc ∧ operandBytes (mk w) = wordBytes w)
        (hwf : ∀ w, WellFormed (mk w) = true) (h : decodeCodeOperand mk tail = .instr i rest) :
        WellFormed i = true ∧ encode i ++ rest = opc :: tail := by
      obtain ⟨w, rfl, hbytes⟩ := decodeCodeOperand_eq_instr h
      exact ⟨hwf w, by rw [encode, (hop w).1, (hop w).2, List.cons_append, hbytes]⟩
    change decodeOpcode opc tail = .instr i rest at h
    unfold decodeOpcode at h
    split at h
    case h_4 hn =>
      obtain ⟨buf, rfl, hlen, hbytes⟩ := decodeBufOperand_eq_instr h
      exact ⟨decide_eq_true hlen, by rw [encode, List.cons_append, hbytes, ← hopc _ hn]; rfl⟩
    case h_5 hn => exact hcode (mk := .cvtV) (fun w => ⟨hopc _ hn, rfl⟩) (fun _ => rfl) h
    case h_6 hn => exact hcode (mk := .cvtMv) (fun w => ⟨hopc _ hn, rfl⟩) (fun _ => rfl) h
    case h_21 => cases h
    all_goals
      rename_i hn
      cases h
      exact ⟨rfl, by rw [← hopc _ hn]; rfl⟩

/-- Settles O3, by evaluation: the words are closed. -/
theorem writtenWordsDecode : Obligations.WrittenWordsDecode := by
  unfold Obligations.WrittenWordsDecode
  decide

end Sys2Proof

namespace Sys2Proof.Machine

/-! ## The serialised response (rule R61) -/

/-- Byte `j` of a word, most significant first. -/
theorem wordBytes_getElem? (w : Word) {j : Nat} (hj : j < 4) :
    (wordBytes w)[j]? = some (w.extractLsb' (24 - 8 * j) 8) := by
  interval_cases j <;> rfl

/-- Byte `j` of a 24-bit field, most significant first. -/
theorem encodeField_getElem? (c : Field24) {j : Nat} (hj : j < 3) :
    (encodeField c)[j]? = some (c.extractLsb' (16 - 8 * j) 8) := by
  interval_cases j <;> rfl

/-- A list of words takes four bytes a word. -/
theorem length_flatMap_wordBytes (ws : List Word) : (ws.flatMap wordBytes).length = 4 * ws.length := by
  induction ws with
  | nil => rfl
  | cons w ws ih =>
    rw [List.flatMap_cons, List.length_append, ih, List.length_cons, Nat.mul_succ, Nat.add_comm]
    rfl

/-- Byte `j` of word `k` in a list of words. -/
theorem flatMap_wordBytes_getElem? (ws : List Word) (k : Nat) {j : Nat} (hj : j < 4) :
    (ws.flatMap wordBytes)[4 * k + j]? = ws[k]?.map fun w => w.extractLsb' (24 - 8 * j) 8 := by
  induction ws generalizing k with
  | nil => rfl
  | cons w ws ih =>
    rw [List.flatMap_cons]
    cases k with
    | zero =>
      rw [Nat.mul_zero, Nat.zero_add, List.getElem?_append_left hj, wordBytes_getElem? w hj]
      rfl
    | succ k =>
      have hskip : 4 * (k + 1) + j = (4 * k + j) + (wordBytes w).length := by
        rw [show (wordBytes w).length = 4 from rfl]
        omega
      rw [hskip, List.getElem?_append_right (Nat.le_add_left ..), Nat.add_sub_cancel, ih,
        List.getElem?_cons_succ]

/-- Settles O4: the codes by evaluation, the frame byte by byte through the lists of words. -/
theorem responseBytes : Obligations.ResponseBytes := by
  refine ⟨rfl, rfl, rfl, rfl, rfl, rfl, rfl, rfl, rfl, fun code => ⟨fun p => rfl, rfl, fun b => rfl,
    fun v => ⟨_, _, _, _, word_of_bytes v, rfl⟩,
    fun f => ⟨?length, fun j hj => ?status, fun k j hj => ?channel⟩⟩⟩
  case length =>
    simp only [Response.bytes, Payload.bytes, List.length_cons, List.length_append,
      length_flatMap_wordBytes, Vector.length_toList]
    rfl
  case status =>
    rw [Nat.add_comm, Response.bytes, List.getElem?_cons_succ, Payload.bytes,
      List.getElem?_append_left hj, encodeField_getElem? _ hj]
  case channel =>
    have hskip : 4 + 4 * k.val + j = ((4 * k.val + j) + (encodeField f.status).length) + 1 := by
      rw [show (encodeField f.status).length = 3 from rfl]
      omega
    rw [hskip, Response.bytes, List.getElem?_cons_succ, Payload.bytes,
      List.getElem?_append_right (Nat.le_add_left ..), Nat.add_sub_cancel, flatMap_wordBytes_getElem? _ _ hj]
    simp

end Sys2Proof.Machine

namespace Sys2Proof.Machine

/-! ## The two frames at a command boundary and after a fault -/

/-- Once FAULT is set no host command has a step (rule R133 (1)). -/
theorem hostCommand_faulted {c : Command} {s : State} {body : State → Out} {f : FaultRecord}
    (hf : s.fault = some f) : hostCommand c s body = .fault (.stopped f.code) := by
  simp [hostCommand, hf]

/-- Once FAULT is set no micro-operation has a step (rule R133 (1)). -/
theorem microOp_faulted {i : Instr} {s : State} {body : Command → Fin 8 → Out} {f : FaultRecord}
    (hf : s.fault = some f) : microOp i s body = .fault (.stopped f.code) := by
  simp [microOp, hf]

/-- A micro-operation issued at the host interface is an illegal command (rule R69). -/
theorem microOp_idle {i : Instr} {s : State} {body : Command → Fin 8 → Out} (hs : AtBoundary s) :
    microOp i s body = .next (faulted s .illegalCmd (opcode i)) := by
  simp only [microOp, hs.1, hs.2]
  rfl

/-- Settles O11: either frame stops, and so does the step. -/
theorem faultStopsTheBlock : Obligations.FaultStopsTheBlock := by
  intro s f hf
  refine ⟨fun i => ?_, fun hr => by simp [step, stepOnce, hr, hf]⟩
  obtain ⟨-, c, body, -, hexec⟩ | ⟨-, body, hexec⟩ := exec_eq_hostCommand_or_microOp i s
  · rw [hexec, hostCommand_faulted hf]
  · rw [hexec, microOp_faulted hf]

/-- Settles O9: bit 7 of the opcode gives the micro-operation's frame. -/
theorem microOperationsIllegalAtHost : Obligations.MicroOperationsIllegalAtHost := by
  intro s i hs hmicro
  obtain ⟨hhost, -⟩ | ⟨-, body, hexec⟩ := exec_eq_hostCommand_or_microOp i s
  · rw [hmicro] at hhost
    cases hhost
  · rw [hexec, microOp_idle hs]

/-! ## The step at a command boundary (rules R69 and R145, log 1) -/

/-- Taking bytes leaves the host without a reset request where it had none. -/
theorem setHost_rest {s : State} (hr : s.host.resetReq = false) (rest : List Byte) :
    s.setHost { s.host with cmdIn := rest } = { s with host := { cmdIn := rest, resetReq := false } } := by
  rw [← hr]
  rfl

/-- Settles O5: the two answers of the decoder that are not illegal. -/
theorem stepRunsHostCommand : Obligations.StepRunsHostCommand := by
  intro s hs hr
  rw [step_idle hr hs.1 hs.2]
  refine ⟨fun i rest hd => ?_, fun hd => ?_⟩
  · simp only [stepHost, hd, setHost_rest hr]
  · simp only [stepHost, hd]

/-- Settles O8: the byte is a micro-operation's code or none, and either way the fault records it. -/
theorem illegalOpcodesFault : Obligations.IllegalOpcodesFault := by
  intro s opc rest hs hr hcmd hopc
  obtain ⟨i, hd, hi, hmicro⟩ | hd := decode_not_host opc rest hopc
  · refine ((stepRunsHostCommand s hs hr).1 i rest (by rw [hcmd, hd])).trans ?_
    have hat : AtBoundary { s with host := { cmdIn := rest, resetReq := false } } := hs
    refine (microOperationsIllegalAtHost _ i hat hmicro).trans ?_
    simp only [faulted, hi, hs.2]
  · rw [step_idle hr hs.1 hs.2]
    simp only [stepHost, hcmd, hd, setHost_rest hr, raiseFault, State.setFault, hs.2]

/-- Settles O7: the request is served first, and the block is constructed anew. -/
theorem systemResetReconstructs : Obligations.SystemResetReconstructs := by
  intro s hr
  refine ⟨_, step_reset hr, rfl, rfl, rfl, rfl, rfl, rfl, rfl, rfl, rfl, rfl, rfl, rfl, rfl, rfl, rfl,
    rfl, rfl, rfl, fun i => rfl, rfl, rfl, rfl, rfl, rfl, rfl, fun r => ?_⟩
  cases r with
  | drdy => exact .inr rfl
  | miso => exact .inr rfl
  | mclk => exact .inl rfl
  | cs => exact .inl rfl
  | mosi => exact .inl rfl
  | sclk => exact .inl rfl

/-! ## Acceptance of a command (rules R18, R131 and R133) -/

/-- A command that is not admitted faults, with UPC at IDLE. -/
theorem hostCommand_wrongState {c : Command} {s : State} {body : State → Out} (hs : AtBoundary s)
    (hadm : admitted c s.lc = false) : hostCommand c s body = .next (faulted s .wrongState c.opcode) := by
  rw [hostCommand_not_admitted hs.1 hs.2 hadm]
  rfl

/-- An admitted command runs its body with UPC at (c, 0). -/
theorem hostCommand_accepted {c : Command} {s : State} {body : State → Out} (hs : AtBoundary s)
    (hadm : admitted c s.lc = true) : hostCommand c s body = body { s with upc := .running c 0 } := by
  rw [hostCommand_admitted hs.1 hs.2 hadm]
  rfl

/-- INIT with two equal pins faults with UPC at (INIT, 0) (rule R122). -/
theorem exec_init_conflict {s : State} (hs : AtBoundary s) (hlc : s.lc = .uninit)
    (hpins : ¬ s.cfg.pins.toList.Nodup) :
    exec .init s = .next (faulted { s with upc := .running .init 0 } .pinConflict 0x01#8) := by
  rw [exec, execInit, hostCommand_accepted hs (by rw [hlc]; rfl), if_pos (by simp [Pins.distinct, hpins])]
  rfl

/-- INIT with six distinct pins is accepted (rule R122). -/
theorem exec_init_accepted {s : State} (hs : AtBoundary s) (hlc : s.lc = .uninit)
    (hpins : s.cfg.pins.toList.Nodup) : exec .init s = .next { s with upc := .running .init 0 } := by
  rw [exec, execInit, hostCommand_accepted hs (by rw [hlc]; rfl), if_neg (by simp [Pins.distinct, hpins])]

/-- Settles O13: both checks come after admission. -/
theorem operandChecksFault : Obligations.OperandChecksFault := by
  intro s hs
  exact ⟨exec_init_conflict hs, fun buf hlc hshort => ((decodeCommandResult s buf hs).2 hlc).1 hshort⟩

/-- READY is accepted with LC INIT (rule R123). -/
theorem exec_ready_accepted {s : State} (hs : AtBoundary s) (hlc : s.lc = .init) :
    exec .ready s = .next { s with upc := .running .ready 0 } := by
  rw [exec, execReady, hostCommand_accepted hs (by rw [hlc]; rfl)]

/-- DESTROY is accepted until the block is destroyed (rule R125). -/
theorem exec_destroy_accepted {s : State} (hs : AtBoundary s) (hlc : s.lc ≠ .destroyed) :
    exec .destroy s = .next { s with upc := .running .destroy 0 } := by
  have hadm : admitted .destroy s.lc = true := by
    cases h : s.lc with
    | destroyed => exact absurd h hlc
    | uninit => rfl
    | init => rfl
    | failed => rfl
  rw [exec, execDestroy, hostCommand_accepted hs hadm]

/-- The sequencer's step runs the micro-operation it stands before (rule R18). -/
theorem step_eq_exec {s : State} {c : Command} {k : Fin 8} {i : Instr} (hs : AtStep s c k)
    (hr : s.host.resetReq = false) (hi : stepAt c k = some i) : step s = exec i s :=
  step_running hr hs.1 hs.2 hi

/-- Settles O15: acceptance, and the sample of `sampleDrdyEffect`. -/
theorem readyReturnsTheLevel : Obligations.ReadyReturnsTheLevel := by
  intro s hs hr
  refine ⟨fun hlc => hostCommand_wrongState hs ((admitted_ready_eq_false_iff _).mpr hlc),
    fun hlc hin => ⟨exec_ready_accepted hs hlc, ?_⟩⟩
  have hat : AtStep { s with upc := .running .ready 0 } .ready 0 := ⟨hs.1, rfl⟩
  exact (step_eq_exec hat hr rfl).trans (((sampleDrdyEffect _).1 hat).2 hin)

/-- Settles O16: acceptance, and the sample of `sampleDrdyEffect`. -/
theorem readNotReady : Obligations.ReadNotReady := by
  intro s hs hr hlc hin hhigh
  refine ⟨exec_read_accepted hs hlc, ?_⟩
  have hat : AtStep { s with upc := .running .read 0 } .read 0 := ⟨hs.1, rfl⟩
  exact (step_eq_exec hat hr rfl).trans (((sampleDrdyEffect _).2 hat).2.2 hin hhigh)

/-- Settles O18: acceptance, and the release of `busReleaseEffect`. -/
theorem destroyReleasesTheBus : Obligations.DestroyReleasesTheBus := by
  intro s hs hr
  refine ⟨fun hlc => hostCommand_wrongState hs ((admitted_destroy_eq_false_iff _).mpr hlc),
    fun hlc => ⟨exec_destroy_accepted hs hlc, ?_⟩⟩
  have hat : AtStep { s with upc := .running .destroy 0 } .destroy 0 := ⟨hs.1, rfl⟩
  obtain ⟨t, hexec, hsclk, hmosi, ht⟩ := busReleaseEffect _ hat
  exact ⟨t, (step_eq_exec hat hr rfl).trans hexec, ht, hsclk, hmosi⟩

/-! ## U_MCLK_START, U_TXN_BEGIN and U_XFER (rules R75, R93 and R96) -/

/-- U_MCLK_START at a step that holds it. -/
theorem exec_uMclkStart_at {s : State} {c : Command} {k : Fin 8} (hs : AtStep s c k)
    (hi : stepAt c k = some .uMclkStart) :
    exec .uMclkStart s =
      if !s.cfg.pinValid s.cfg.pins.mclk then returnError c .eInvalidPin s
      else if !s.mclk.run && !s.cfg.timerFree then returnError c .eClockCfg s
      else if !s.cfg.clockFeasible then returnError c .eClockCfg s
      else moveOn c k (s.setMclk s.mclk.started) := by
  rw [exec, execUMclkStart, microOp_at hs.1 hs.2 hi]

/-- Settles O22: the three checks in their order, and the start they let through. -/
theorem mclkStartEffect : Obligations.MclkStartEffect := by
  intro s hs
  have hexec := exec_uMclkStart_at hs rfl
  refine ⟨fun hpin => ?_, fun hpin hrun htimer => ?_, fun hpin htimer hfeas => ?_,
    fun hpin htimer hfeas => ⟨_, ?_, rfl, rfl⟩⟩
  · rw [hexec, hpin]
    rfl
  · rw [hexec, hpin, hrun, htimer]
    rfl
  all_goals
    have hfree : (!s.mclk.run && !s.cfg.timerFree) = false := by
      obtain h | h := htimer <;> simp [h]
    rw [hexec, hpin, hfree, hfeas]
    rfl

/-- Settles O28: the precondition, then who has the claim. -/
theorem txnBeginEffect : Obligations.TxnBeginEffect := by
  intro s hs
  have hexec := exec_uTxnBegin_at hs rfl
  refine ⟨fun hn => ?_, fun hup hset htxn => ⟨fun hsh => ?_, fun hsh hclaim => ?_, fun hsh hclaim => ?_,
    fun t ht => ?_⟩⟩
  · rw [hexec, require_of_not (by simpa [and_assoc] using hn)]
    rfl
  · rw [exec_uTxnBegin_unshared hs hup hset htxn hsh, Spi.begun, hup]
    rfl
  · rw [hexec, require_of (by simp [hup, hset, htxn]), hsh, hclaim]
    rfl
  · rw [hexec, require_of (by simp [hup, hset, htxn]), hsh, hclaim, Spi.begun, hup]
    rfl
  · simp [pinView, ht]

/-- The transfer of a READ, after a draw that has left the environment `e` (rules R96 and R97). -/
theorem transferOn_read (s : State) (e : Env) :
    ∃ m : Memory, (∀ i < 27, m.read i = (xbytes 27 e.drawFseq).1[i]?) ∧
      (∀ i, 27 ≤ i → m.read i = s.rx.read i) ∧
      transferOn .read 3 (s.setEnv e) = .next { s with
        rx := m, wire := s.wire ++ (xbytes 27 e.drawFseq).2.1, env := (xbytes 27 e.drawFseq).2.2
        upc := .running .read 4 } := by
  obtain ⟨m, hcell, hrest, htransfer⟩ := transferOn_cells .read 3 (s.setEnv e)
  rw [State.setEnv_env] at hcell htransfer
  generalize xbytes 27 e.drawFseq = x at hcell htransfer ⊢
  exact ⟨m, hcell, hrest, htransfer⟩

/-- Settles O30: the precondition, the hang, and the transfer of `transferOn_cells`. -/
theorem xferEffect : Obligations.XferEffect := by
  intro s hs
  have hexec := exec_uXfer_at hs rfl
  refine ⟨fun hn => ?_, fun htxn hlvl => ?_⟩
  · rw [hexec, require_of_not (by simpa using hn)]
    rfl
  rw [require_of (by simp [htxn, hlvl])] at hexec
  refine ⟨fun hhung => ?_, fun hhung hmay hdraw => ?_, fun hhung hfree => ⟨xbytes_length 27 _, ?_⟩⟩
  · rw [hexec, if_pos hhung]
  · rw [hexec, hhung, hmay, hdraw]
    rfl
  · by_cases hmay : s.cfg.busMayHang = true
    · have hdraw : s.env.drawHang.1 = false := by simpa [hmay] using hfree
      rw [hexec, if_neg (by simp [hhung]), if_pos hmay, if_neg (by simp [hdraw]), if_pos hmay]
      obtain ⟨m, hcell, hrest, htransfer⟩ := transferOn_read s s.env.drawHang.2
      exact ⟨m, htransfer, hcell, hrest⟩
    · rw [if_neg hmay]
      obtain ⟨m, hcell, hrest, hxfer⟩ :=
        exec_uXfer_read hs htxn hlvl hhung (Bool.eq_false_of_not_eq_true hmay)
      exact ⟨m, hxfer, hcell, hrest⟩

end Sys2Proof.Machine

namespace Sys2Proof.Machine

/-! ## One INIT, from acceptance to its result (rule R122) -/

section
variable {s : State} {n : Nat}

/-- The clock starts and settles: U_MCLK_START and the wait after it. -/
theorem run_init_clock (hs : AtStep s .init 0) (hr : s.host.resetReq = false)
    (hpin : s.cfg.pinValid s.cfg.pins.mclk = true) (htimer : s.mclk.run = true ∨ s.cfg.timerFree = true)
    (hfeas : s.cfg.clockFeasible = true) :
    Host.Core.run Sys2Proof.core (n + 2) s =
      Host.Core.run Sys2Proof.core n { s with mclk := mclkRunning, upc := .running .init 2 } := by
  obtain ⟨t, hstart, -, rfl⟩ := (mclkStartEffect s hs).2.2.2 hpin htimer hfeas
  rw [core_run_exec hr hs rfl hstart]
  exact core_run_exec hr ⟨hs.1, rfl⟩ rfl ((waitStabEffect _).1 ⟨hs.1, rfl⟩)

/-- Chip-select becomes an output at HIGH. -/
theorem run_init_cs (hs : AtStep s .init 2) (hr : s.host.resetReq = false)
    (hpin : s.cfg.pinValid s.cfg.pins.cs = true) :
    Host.Core.run Sys2Proof.core (n + 1) s =
      Host.Core.run Sys2Proof.core n { s with
        cs := { dir := .out, lvl := some .high }, wire := s.wire ++ [.cs .high], upc := .running .init 3 } := by
  obtain ⟨t, hexec, -, rfl⟩ := (csInitEffect s hs).2 hpin
  exact core_run_exec hr hs rfl hexec

/-- Data-ready becomes an input. -/
theorem run_init_drdy (hs : AtStep s .init 3) (hr : s.host.resetReq = false)
    (hpin : s.cfg.pinValid s.cfg.pins.drdy = true) :
    Host.Core.run Sys2Proof.core (n + 1) s =
      Host.Core.run Sys2Proof.core n { s with drdy := .input, upc := .running .init 4 } :=
  core_run_exec hr hs rfl ((drdyInitEffect s hs).2 hpin)

/-- The bus comes up, and the last wait ends INIT with OK. -/
theorem run_init_bus (hs : AtStep s .init 4) (hr : s.host.resetReq = false)
    (hsclk : s.cfg.pinValid s.cfg.pins.sclk = true) (hmosi : s.cfg.pinValid s.cfg.pins.mosi = true)
    (hmiso : s.cfg.pinValid s.cfg.pins.miso = true) (hbus : s.cfg.busAvailable = true) :
    Host.Core.run Sys2Proof.core 2 s = .next { ended s .ok .none with
      spi := { s.spi with up := true }
      mclk := { s.mclk with settled := s.mclk.run || s.mclk.settled }
      lc := .init } := by
  obtain ⟨t, hup, -, -, rfl⟩ := ((busUpEffect s hs).2 hsclk hmosi hmiso).2 hbus
  rw [core_run_exec hr hs rfl hup]
  exact core_run_exec (n := 0) hr ⟨hs.1, rfl⟩ rfl ((waitStabEffect _).2 ⟨hs.1, rfl⟩)

end

/-- A run of one step that is a micro-operation of the sequence. -/
theorem core_run_one_exec {s t : State} {c : Command} {k : Fin 8} {i : Instr} (hs : AtStep s c k)
    (hr : s.host.resetReq = false) (hi : stepAt c k = some i) (h : exec i s = .next t) :
    Host.Core.run Sys2Proof.core 1 s = .next t :=
  core_run_one ((step_eq_exec hs hr hi).trans h)

/-- At most `bound` steps take the block from `t` to `u`. -/
def EndsWithin (bound : Nat) (t u : State) : Prop :=
  ∃ n ≤ bound, Host.Core.run Sys2Proof.core n t = .next u

/-- A run to one of two states, from what decides between them. -/
theorem EndsWithin.ite {p : Prop} [Decidable p] {bound : Nat} {t u v : State} (hu : p → EndsWithin bound t u)
    (hv : ¬ p → EndsWithin bound t v) : EndsWithin bound t (if p then u else v) := by
  split_ifs with h
  · exact hu h
  · exact hv h

/-- An accepted INIT ends within six steps: each branch of the outcome is a run up to the step that takes it. -/
theorem run_init {s : State} (hf : s.fault = none) (hr : s.host.resetReq = false) :
    EndsWithin 6 { s with upc := .running .init 0 } (initOutcome s) := by
  have h0 : AtStep { s with upc := .running .init 0 } .init 0 := ⟨hf, rfl⟩
  have h2 : AtStep { s with mclk := mclkRunning, upc := .running .init 2 } .init 2 := ⟨hf, rfl⟩
  have h3 : AtStep { s with
      mclk := mclkRunning, cs := { dir := .out, lvl := some .high }, wire := s.wire ++ [.cs .high]
      upc := .running .init 3 } .init 3 := ⟨hf, rfl⟩
  have h4 : AtStep { s with
      mclk := mclkRunning, cs := { dir := .out, lvl := some .high }, wire := s.wire ++ [.cs .high]
      drdy := .input, upc := .running .init 4 } .init 4 := ⟨hf, rfl⟩
  unfold initOutcome
  -- step 0: the clock
  refine EndsWithin.ite (fun hbad => ⟨1, by decide,
    core_run_one_exec h0 hr rfl ((mclkStartEffect _ h0).1 hbad)⟩) fun hpin => ?_
  rw [Bool.not_eq_false] at hpin
  refine EndsWithin.ite (fun hbad => ⟨1, by decide,
    core_run_one_exec h0 hr rfl ((mclkStartEffect _ h0).2.1 hpin hbad.1 hbad.2)⟩) fun htimer => ?_
  rw [not_and_or, Bool.not_eq_false, Bool.not_eq_false] at htimer
  refine EndsWithin.ite (fun hbad => ⟨1, by decide,
    core_run_one_exec h0 hr rfl ((mclkStartEffect _ h0).2.2.1 hpin htimer hbad)⟩) fun hfeas => ?_
  rw [Bool.not_eq_false] at hfeas
  have hclock (n : Nat) := run_init_clock (n := n) h0 hr hpin htimer hfeas
  -- step 2: chip-select
  refine EndsWithin.ite (fun hbad => ⟨3, by decide,
    (hclock 1).trans (core_run_one_exec h2 hr rfl ((csInitEffect _ h2).1 hbad))⟩) fun hcs => ?_
  have hselect (n : Nat) := run_init_cs (n := n) h2 hr (Bool.eq_true_of_not_eq_false hcs)
  -- step 3: data-ready
  refine EndsWithin.ite (fun hbad => ⟨4, by decide, (hclock 2).trans <| (hselect 1).trans <|
    core_run_one_exec h3 hr rfl ((drdyInitEffect _ h3).1 hbad)⟩) fun hdrdy => ?_
  have hlisten (n : Nat) := run_init_drdy (n := n) h3 hr (Bool.eq_true_of_not_eq_false hdrdy)
  -- step 4: the bus
  refine EndsWithin.ite (fun hbad => ⟨5, by decide, (hclock 3).trans <| (hselect 2).trans <| (hlisten 1).trans <|
    core_run_one_exec h4 hr rfl ((busUpEffect _ h4).1 hbad)⟩) fun hpins => ?_
  simp only [not_or, Bool.not_eq_false] at hpins
  obtain ⟨hsclk, hmosi, hmiso⟩ := hpins
  refine EndsWithin.ite (fun hbad => ⟨5, by decide, (hclock 3).trans <| (hselect 2).trans <| (hlisten 1).trans <|
    core_run_one_exec h4 hr rfl (((busUpEffect _ h4).2 hsclk hmosi hmiso).1 hbad)⟩) fun hbus => ?_
  exact ⟨6, by decide, (hclock 4).trans <| (hselect 3).trans <| (hlisten 2).trans <|
    run_init_bus h4 hr hsclk hmosi hmiso (Bool.eq_true_of_not_eq_false hbus)⟩

/-- Settles O14: admission, the pin conflict, and the run of `run_init`. -/
theorem initRunsToItsResult : Obligations.InitRunsToItsResult := by
  intro s hs hr
  exact ⟨fun hlc => (exec_init_wrongState_iff hs).mpr ((admitted_init_eq_false_iff _).mpr hlc),
    exec_init_conflict hs, fun hlc hpins => ⟨exec_init_accepted hs hlc hpins, run_init hs.1 hr⟩⟩

end Sys2Proof.Machine

namespace Sys2Proof.Machine

/-! ## Channels of a decoded frame (rules R109 to R111) -/

/-- A decoded channel is the two's-complement number of its 24-bit field (rule R107). -/
theorem channel_toInt (b : List Byte) (k : Nat) :
    (channel b k).toInt = (fieldAt b (channelOffset k)).toInt := by
  rw [channel, signExtend24_eq_signExtend, BitVec.toInt_signExtend_of_le (by decide)]

/-- Rule R110 for one channel. -/
theorem inCodeRange_channel (b : List Byte) (k : Nat) : inCodeRange (channel b k) := by
  have hle := BitVec.le_toInt (fieldAt b (channelOffset k))
  have hlt := BitVec.toInt_lt (x := fieldAt b (channelOffset k))
  rw [inCodeRange, channel_toInt]
  omega

/-- Every frame DecodeFn gives is in range (rule R38). -/
theorem channelsInRange_decodeFn (b : List Byte) : channelsInRange (decodeFn b).ch := by
  intro w hw
  obtain ⟨k, hk, rfl⟩ := List.getElem_of_mem hw
  rw [Vector.getElem_toList]
  rw [Vector.length_toList] at hk
  exact decodeFn_ch b ⟨k, hk⟩ ▸ inCodeRange_channel b k

end Sys2Proof.Machine

namespace Sys2Proof

/-- Settles O44: the range of a 24-bit two's-complement number. -/
theorem channelsInRange : Obligations.ChannelsInRange := by
  intro b k
  rw [Machine.decodeFn_ch]
  exact Machine.inCodeRange_channel b k

end Sys2Proof

namespace Sys2Proof.Machine

/-- A field depends on its own three bytes only. -/
theorem fieldAt_congr {b b' : List Byte} {off : Nat} (h0 : b[off]? = b'[off]?)
    (h1 : b[off + 1]? = b'[off + 1]?) (h2 : b[off + 2]? = b'[off + 2]?) : fieldAt b off = fieldAt b' off := by
  simp only [fieldAt, byteAt, List.getD_eq_getElem?_getD, h0, h1, h2]

/-- Settles O43: STATUS and each CH[k] are functions of one field. -/
theorem lanesAreIndependent : Obligations.LanesAreIndependent := by
  intro b b' _ _
  refine ⟨fun k h0 h1 h2 => ?_, fieldAt_congr⟩
  have hoff1 : channelOffset k + 1 = 4 + 3 * k.val := Nat.add_right_comm 3 _ 1
  have hoff2 : channelOffset k + 2 = 5 + 3 * k.val := Nat.add_right_comm 3 _ 2
  rw [decodeFn_ch, decodeFn_ch, channel, channel,
    fieldAt_congr (off := channelOffset k) h0 (by rw [hoff1, h1]) (by rw [hoff2, h2])]

/-- Three bytes cut out of a field and put together again. -/
theorem field_of_bytes (c : Field24) :
    (c.extractLsb' 16 8 ++ c.extractLsb' 8 8 ++ c.extractLsb' 0 8 : BitVec 24) = c := by
  refine BitVec.eq_of_getLsbD_eq fun i hi => ?_
  simp only [BitVec.getLsbD_append, BitVec.getLsbD_extractLsb']
  grind

/-- Three bytes that are `Enc(v)` assemble to `v` (rules R108 and R111). -/
theorem fieldAt_of_encodeField {b : List Byte} {off : Nat} {c : Field24}
    (h : (b.drop off).take 3 = encodeField c) : fieldAt b off = c := by
  have hbyte {j : Nat} (hj : j < 3) : byteAt b (off + j) = c.extractLsb' (16 - 8 * j) 8 := by
    have hcell := encodeField_getElem? c hj
    rw [← h, List.getElem?_take_of_lt hj, List.getElem?_drop] at hcell
    rw [byteAt, List.getD_eq_getElem?_getD, hcell, Option.getD_some]
  have hfirst : byteAt b off = c.extractLsb' 16 8 := hbyte (j := 0) (by decide)
  rw [fieldAt, hfirst, hbyte (by decide : 1 < 3), hbyte (by decide : 2 < 3), assemble24_eq_append,
    field_of_bytes]

/-- Settles O45: the field assembles to the code, which 24 bits hold exactly. -/
theorem codeRoundTrip : Obligations.CodeRoundTrip := by
  intro v k b hlo hhi _ h
  rw [decodeFn_ch, channel_toInt, channelOffset, fieldAt_of_encodeField h, BitVec.toInt_ofInt]
  exact Int.bmod_eq_of_le (by omega) (by omega)

end Sys2Proof.Machine

namespace Sys2Proof.Machine

/-! ## What an instruction can do, said once: at a command boundary -/

/-- The next states of an instruction executed at a command boundary (rules R18, R69, R113, R118, R119, R131
and R133). -/
inductive BoundaryEffect (s : State) : State → Prop
  /-- an illegal code, or a command that is not admitted -/
  | rejects (code : FaultCode) (opc : Byte) : BoundaryEffect s (faulted s code opc)
  /-- INIT, READY, READ or DESTROY is accepted -/
  | accepts (c : Command) (hadm : admitted c s.lc = true) (hc : 0 < c.sequence.length) :
      BoundaryEffect s { s with upc := .running c 0 }
  /-- the operand check of INIT or DECODE fails -/
  | operandFails (c : Command) (hadm : admitted c s.lc = true) (code : FaultCode) (opc : Byte) :
      BoundaryEffect s (faulted { s with upc := .running c 0 } code opc)
  /-- DECODE, CVT_V or CVT_MV answers -/
  | answers (p : Payload) (hp : ∀ f, p = .frame f → channelsInRange f.ch) :
      BoundaryEffect s (ended s .ok p)

/-- A host command at a command boundary, from what its body does once it is accepted. -/
theorem hostCommand_effect {c : Command} {s : State} {body : State → Out} (hs : AtBoundary s)
    (hbody : admitted c s.lc = true →
      ∃ t, body { s with upc := .running c 0 } = .next t ∧ BoundaryEffect s t) :
    ∃ t, hostCommand c s body = .next t ∧ BoundaryEffect s t := by
  cases hadm : admitted c s.lc with
  | false => exact ⟨_, hostCommand_wrongState hs hadm, .rejects _ _⟩
  | true =>
    rw [hostCommand_accepted hs hadm]
    exact hbody hadm

/-- Every instruction answers a next state at a command boundary, and this is all it can be. -/
theorem exec_at_boundary {s : State} (hs : AtBoundary s) (i : Instr) :
    ∃ t, exec i s = .next t ∧ BoundaryEffect s t := by
  obtain ⟨hhost, -⟩ | ⟨hmicro, -⟩ := exec_eq_hostCommand_or_microOp i s
  · cases i with
    | init =>
      rw [exec, execInit]
      refine hostCommand_effect hs fun hadm => ?_
      split_ifs
      · exact ⟨_, rfl, .operandFails .init hadm _ _⟩
      · exact ⟨_, rfl, .accepts .init hadm (by decide)⟩
    | decode buf =>
      rw [exec, execDecode]
      refine hostCommand_effect hs fun hadm => ?_
      split_ifs
      · exact ⟨_, rfl, .operandFails .decode hadm _ _⟩
      · exact ⟨_, rfl, .answers _ (by rintro f ⟨⟩; exact channelsInRange_decodeFn _)⟩
    | ready => exact hostCommand_effect hs fun hadm => ⟨_, rfl, .accepts .ready hadm (by decide)⟩
    | read => exact hostCommand_effect hs fun hadm => ⟨_, rfl, .accepts .read hadm (by decide)⟩
    | destroy => exact hostCommand_effect hs fun hadm => ⟨_, rfl, .accepts .destroy hadm (by decide)⟩
    | cvtV code => exact hostCommand_effect hs fun _ => ⟨_, rfl, .answers _ (by rintro f ⟨⟩)⟩
    | cvtMv code => exact hostCommand_effect hs fun _ => ⟨_, rfl, .answers _ (by rintro f ⟨⟩)⟩
    | _ => cases hhost
  · exact ⟨_, microOperationsIllegalAtHost s i hs hmicro, .rejects _ _⟩

/-! ## What an instruction can do, said once: inside a command -/

/-- The precondition of a micro-operation (rules R90, R93, R95, R96, R100, R101 and R112). -/
def Enabled (s : State) (i : Instr) : Prop :=
  match i with
  | .uSampleDrdy => s.drdy = .input
  | .uTxnBegin => s.spi.up = true ∧ s.mclk.settled = true ∧ s.spi.txn = false
  | .uCsAssert => s.spi.txn = true ∧ s.cs.dir = .out ∧ s.cs.lvl = some .high
  | .uXfer => s.spi.txn = true ∧ s.cs.lvl = some .low
  | .uCsDeassert => s.spi.txn = true ∧ s.cs.lvl = some .low
  | .uTxnEnd => s.spi.txn = true ∧ s.cs.lvl = some .high
  | .uDecode => ∀ i < 27, (s.rx.read i).isSome = true
  | _ => True

/-- The next states of a micro-operation executed at its step (rules R75, R76, R87 to R90, R93, R95, R96, R100 to R102
and R112). -/
inductive StepEffect (s : State) : Instr → State → Prop
  | faults (i : Instr) (hdisabled : ¬ Enabled s i) (code : FaultCode) (opc : Byte) :
      StepEffect s i (faulted s code opc)
  /-- INIT ends with an error result before its bus is up -/
  | initFails (i : Instr) (k : Fin 8) (hu : s.upc = .running .init k) (hk : k ≠ 5) (code : ResultCode) :
      StepEffect s i (initFailed s code)
  | clockStarts (hu : s.upc = .running .init 0) : StepEffect s .uMclkStart { s with
      mclk := s.mclk.started, upc := .running .init 1 }
  | clockSettles (hu : s.upc = .running .init 1) : StepEffect s .uWaitStab { s with
      mclk := { s.mclk with settled := s.mclk.run || s.mclk.settled }, upc := .running .init 2 }
  | csConfigured (hu : s.upc = .running .init 2) : StepEffect s .uCsInit { s with
      cs := { dir := .out, lvl := some .high }, wire := s.wire ++ [.cs .high], upc := .running .init 3 }
  | drdyConfigured (hu : s.upc = .running .init 3) : StepEffect s .uDrdyInit { s with
      drdy := .input, upc := .running .init 4 }
  | busUp (hu : s.upc = .running .init 4) : StepEffect s .uBusUp { s with
      spi := { s.spi with up := true }, upc := .running .init 5 }
  | initEnds (hu : s.upc = .running .init 5) : StepEffect s .uWaitStab { ended s .ok .none with
      mclk := { s.mclk with settled := s.mclk.run || s.mclk.settled }, lc := .init }
  | readyEnds (hu : s.upc = .running .ready 0) (b : Bool) : StepEffect s .uSampleDrdy
      { ended s .ok (.bool b) with env := s.env.drawDrdy.2 }
  | readNotReady (hu : s.upc = .running .read 0) : StepEffect s .uSampleDrdy
      { ended s .notReady .none with env := s.env.drawDrdy.2 }
  | readReady (hu : s.upc = .running .read 0) : StepEffect s .uSampleDrdy { s with
      env := s.env.drawDrdy.2, upc := .running .read 1 }
  | claimHeld (hu : s.upc = .running .read 1) : StepEffect s .uTxnBegin { s with env := s.env.drawClaim.2 }
  | txnBegun (hu : s.upc = .running .read 1) (hen : Enabled s .uTxnBegin) (e : Env)
      (he : e = s.env ∨ e = s.env.drawClaim.2) :
      StepEffect s .uTxnBegin { s with env := e, spi := s.spi.begun, upc := .running .read 2 }
  | csAsserted (hu : s.upc = .running .read 2) : StepEffect s .uCsAssert { s with
      cs := { dir := .out, lvl := some .low }, wire := s.wire ++ [.cs .low], upc := .running .read 3 }
  | xferHolds (hu : s.upc = .running .read 3) : StepEffect s .uXfer s
  | xferHangs (hu : s.upc = .running .read 3) : StepEffect s .uXfer { s with
      env := s.env.drawHang.2, hung := true }
  | transferred (hu : s.upc = .running .read 3) (hhung : s.hung = false) (m : Memory) (w : List WireEvent)
      (e : Env) (hwf : s.rx.wf = true → m.wf = true) (hfull : ∀ i < frameLen, (m.read i).isSome = true)
      (hread : e.fseqRead = s.env.fseqRead) (horder : e.fseqRead ≤ e.fseqXfer) :
      StepEffect s .uXfer { s with rx := m, wire := w, env := e, upc := .running .read 4 }
  | csDeasserted (hu : s.upc = .running .read 4) : StepEffect s .uCsDeassert { s with
      cs := { s.cs with lvl := some .high }, wire := s.wire ++ [.cs .high], upc := .running .read 5 }
  | txnEnded (hu : s.upc = .running .read 5) : StepEffect s .uTxnEnd { s with
      spi := { s.spi with txn := false, claim := false }, upc := .running .read 6 }
  | frameRead (hu : s.upc = .running .read 6) (b : List Byte) (hlen : b.length = 27)
      (hcell : ∀ i < 27, s.rx.read i = b[i]?) : StepEffect s .uDecode { ended s .ok (.frame (decodeFn b)) with
        tmp := some (decodeFn b)
        frameOut := { valid := true, status := some (decodeFn b).status, ch := some (decodeFn b).ch }
        env := { s.env with fseqRead := s.env.fseqXfer } }
  | busReleased (hu : s.upc = .running .destroy 0) : StepEffect s .uBusRelease
      { ended s .ok .none with spi := { s.spi with up := false }, lc := .destroyed }

/-- A micro-operation at its step answers one of its effects. -/
def Effective (s : State) (i : Instr) : Prop := ∃ t, exec i s = .next t ∧ StepEffect s i t

theorem Effective.intro {s t : State} {i : Instr} (hexec : exec i s = .next t) (h : StepEffect s i t) :
    Effective s i := ⟨t, hexec, h⟩

section
variable {s : State}

theorem effective_uMclkStart (hs : AtStep s .init 0) : Effective s .uMclkStart := by
  have hexec := exec_uMclkStart_at hs rfl
  split_ifs at hexec
  · exact .intro hexec (.initFails _ 0 hs.2 (by decide) _)
  · exact .intro hexec (.initFails _ 0 hs.2 (by decide) _)
  · exact .intro hexec (.initFails _ 0 hs.2 (by decide) _)
  · exact .intro hexec (.clockStarts hs.2)

theorem effective_uCsInit (hs : AtStep s .init 2) : Effective s .uCsInit := by
  have hexec := exec_uCsInit_at hs rfl
  split_ifs at hexec
  · exact .intro hexec (.initFails _ 2 hs.2 (by decide) _)
  · exact .intro hexec (.csConfigured hs.2)

theorem effective_uDrdyInit (hs : AtStep s .init 3) : Effective s .uDrdyInit := by
  have hexec := exec_uDrdyInit_at hs rfl
  split_ifs at hexec
  · exact .intro hexec (.initFails _ 3 hs.2 (by decide) _)
  · exact .intro hexec (.drdyConfigured hs.2)

theorem effective_uBusUp (hs : AtStep s .init 4) : Effective s .uBusUp := by
  have hexec := exec_uBusUp_at hs rfl
  split_ifs at hexec
  · exact .intro hexec (.initFails _ 4 hs.2 (by decide) _)
  · exact .intro hexec (.initFails _ 4 hs.2 (by decide) _)
  · exact .intro hexec (.busUp hs.2)

/-- A micro-operation with a precondition: it faults where that fails, and else does what its body does. -/
theorem effective_of_require {c : Command} {i : Instr} {p : Bool} {body : Out}
    (hexec : exec i s = require p c s body) (hp : p = true ↔ Enabled s i)
    (hbody : Enabled s i → exec i s = body → Effective s i) : Effective s i := by
  by_cases hen : Enabled s i
  · exact hbody hen (hexec.trans (require_of (hp.mpr hen)))
  · exact .intro (hexec.trans (require_of_not (mt hp.mp hen))) (.faults i hen _ _)

theorem effective_uSampleDrdy_ready (hs : AtStep s .ready 0) : Effective s .uSampleDrdy :=
  effective_of_require (exec_uSampleDrdy_at hs rfl) (by simp [Enabled]) fun _ hexec =>
    .intro hexec (.readyEnds hs.2 _)

theorem effective_uSampleDrdy_read (hs : AtStep s .read 0) : Effective s .uSampleDrdy := by
  refine effective_of_require (exec_uSampleDrdy_at hs rfl) (by simp [Enabled]) fun _ hexec => ?_
  cases hready : readyOf s.env.drawDrdy.1 with
  | false => rw [hready] at hexec; exact .intro hexec (.readNotReady hs.2)
  | true => rw [hready] at hexec; exact .intro hexec (.readReady hs.2)

theorem effective_uTxnBegin (hs : AtStep s .read 1) : Effective s .uTxnBegin := by
  refine effective_of_require (exec_uTxnBegin_at hs rfl) (by simp [Enabled, and_assoc]) fun hen hexec => ?_
  split_ifs at hexec
  · exact .intro hexec (.claimHeld hs.2)
  · exact .intro hexec (.txnBegun hs.2 hen _ (.inr rfl))
  · exact .intro hexec (.txnBegun hs.2 hen _ (.inl rfl))

theorem effective_uCsAssert (hs : AtStep s .read 2) : Effective s .uCsAssert :=
  effective_of_require (exec_uCsAssert_at hs rfl) (by simp [Enabled, and_assoc])
    fun ⟨htxn, hdir, hlvl⟩ _ => .intro (exec_uCsAssert_read hs htxn hdir hlvl) (.csAsserted hs.2)

/-- What a transfer can do, after a draw that has left the environment `e`. -/
theorem effective_of_transferOn (hs : AtStep s .read 3) (hhung : s.hung = false) (e : Env)
    (hread : e.fseqRead = s.env.fseqRead) (hexec : exec .uXfer s = transferOn .read 3 (s.setEnv e)) :
    Effective s .uXfer := by
  obtain ⟨m, w, e', htransfer, hwf, hfull, -, -, hread', horder⟩ := transferOn_spec .read 3 (s.setEnv e)
  exact .intro (hexec.trans htransfer)
    (.transferred hs.2 hhung m w e' hwf hfull (hread'.trans hread) horder)

theorem effective_uXfer (hs : AtStep s .read 3) : Effective s .uXfer := by
  refine effective_of_require (exec_uXfer_at hs rfl) (by simp [Enabled]) fun _ hexec => ?_
  split_ifs at hexec with hhung
  · exact .intro hexec (.xferHolds hs.2)
  · exact .intro hexec (.xferHangs hs.2)
  · exact effective_of_transferOn hs (Bool.eq_false_of_not_eq_true hhung) s.env.drawHang.2 rfl hexec
  · exact effective_of_transferOn hs (Bool.eq_false_of_not_eq_true hhung) s.env rfl hexec

theorem effective_uCsDeassert (hs : AtStep s .read 4) : Effective s .uCsDeassert :=
  effective_of_require (exec_uCsDeassert_at hs rfl) (by simp [Enabled]) fun _ hexec =>
    .intro hexec (.csDeasserted hs.2)

theorem effective_uTxnEnd (hs : AtStep s .read 5) : Effective s .uTxnEnd :=
  effective_of_require (exec_uTxnEnd_at hs rfl) (by simp [Enabled]) fun _ hexec =>
    .intro hexec (.txnEnded hs.2)

/-- A receive buffer whose 27 cells all hold a value reads as a list of bytes. -/
theorem exists_list_of_rx_full (h : ∀ i < 27, (s.rx.read i).isSome = true) :
    ∃ b : List Byte, b.length = 27 ∧ ∀ i < 27, s.rx.read i = b[i]? := by
  have hsome (i : Fin 27) := Option.isSome_iff_exists.mp (h i i.isLt)
  choose v hv using hsome
  exact ⟨List.ofFn v, List.length_ofFn, fun i hi => by rw [hv ⟨i, hi⟩, List.getElem?_ofFn, dif_pos hi]⟩

theorem effective_uDecode (hs : AtStep s .read 6) : Effective s .uDecode := by
  by_cases hfull : Enabled s .uDecode
  · obtain ⟨b, hlen, hcell⟩ := exists_list_of_rx_full hfull
    exact .intro ((decodeStepEffect s hs).2 b hlen hcell) (.frameRead hs.2 b hlen hcell)
  · have hunwritten : ∃ i < 27, s.rx.read i = none := by simpa [Enabled] using hfull
    exact .intro ((decodeStepEffect s hs).1 hunwritten) (.faults _ hfull _ _)

theorem effective_uBusRelease (hs : AtStep s .destroy 0) : Effective s .uBusRelease := by
  obtain ⟨t, hexec, -, -, rfl⟩ := busReleaseEffect s hs
  exact .intro hexec (.busReleased hs.2)

end

/-- Every micro-operation at its step: the rows of rule R120, one by one. -/
theorem exec_at_step {s : State} {c : Command} {k : Fin 8} {i : Instr} (hs : AtStep s c k)
    (hi : stepAt c k = some i) : Effective s i := by
  cases c with
  | init =>
    fin_cases k <;> cases hi
    · exact effective_uMclkStart hs
    · exact .intro ((waitStabEffect s).1 hs) (.clockSettles hs.2)
    · exact effective_uCsInit hs
    · exact effective_uDrdyInit hs
    · exact effective_uBusUp hs
    · exact .intro ((waitStabEffect s).2 hs) (.initEnds hs.2)
  | ready =>
    fin_cases k <;> cases hi
    exact effective_uSampleDrdy_ready hs
  | read =>
    fin_cases k <;> cases hi
    · exact effective_uSampleDrdy_read hs
    · exact effective_uTxnBegin hs
    · exact effective_uCsAssert hs
    · exact effective_uXfer hs
    · exact effective_uCsDeassert hs
    · exact effective_uTxnEnd hs
    · exact effective_uDecode hs
  | destroy =>
    fin_cases k <;> cases hi
    exact effective_uBusRelease hs
  | decode => cases hi
  | cvtV => cases hi
  | cvtMv => cases hi

end Sys2Proof.Machine

namespace Sys2Proof.Machine

/-! ## The invariant, position by position -/

theorem admitted_init_iff (lc : Lc) : admitted .init lc = true ↔ lc = .uninit := by
  cases lc <;> decide

theorem admitted_ready_iff (lc : Lc) : admitted .ready lc = true ↔ lc = .init := by
  cases lc <;> decide

theorem admitted_read_iff (lc : Lc) : admitted .read lc = true ↔ lc = .init := by
  cases lc <;> decide

/-- A command has a step at every index below the length of its sequence. -/
theorem stepAt_isSome {c : Command} {k : Fin 8} (h : k.val < c.sequence.length) :
    (stepAt c k).isSome = true := by
  simp [stepAt, h]

/-- The critical section lies inside the transaction (rules R23 and R36). -/
theorem inCriticalSection_of_not_inTransaction {u : Upc} (h : inTransaction u = false) :
    inCriticalSection u = false := by
  unfold inCriticalSection
  split <;> simp_all [inTransaction]

/-- The block as constructed, whatever the host and the environment are, satisfies the invariant. -/
theorem inv_construct (cfg : Config) (h : HostPort) (e : Env) :
    Inv (((State.construct cfg).setHost h).setEnv e) where
  rxWf := rfl
  upcStep := by rintro - c k ⟨⟩
  upcAdmitted := by rintro c k ⟨⟩
  faultUpc := by rintro f ⟨⟩
  mclkLegal := ⟨rfl, rfl, rfl, rfl, rfl⟩
  spiLegal := .inr ⟨rfl, rfl, rfl, rfl, rfl⟩
  upIff := ⟨by rintro ⟨⟩, by rintro (⟨⟨⟩⟩ | ⟨⟨⟩⟩)⟩
  upClock := by rintro ⟨⟩
  initPins := by rintro ⟨⟩
  initProgress := by rintro k ⟨⟩
  uninitUntouched := fun _ _ => ⟨rfl, rfl, rfl, rfl⟩
  csLevel := rfl
  txnIff := rfl
  claimIff := rfl
  rxFull := by rintro k ⟨⟩
  hungStep := by rintro ⟨⟩
  frameOutLegal := .inl ⟨rfl, rfl, rfl⟩
  resultLegal := by rintro r ⟨⟩
  tmpRange := by rintro f ⟨⟩
  fseqOrder := by rintro k ⟨⟩

/-- Settles O49: the reset state is the block as constructed. -/
theorem invAtReset : Obligations.InvAtReset :=
  inv_construct Config.default HostPort.reset Env.reset

namespace Inv
variable {s : State} (hinv : Inv s)
include hinv

/-- What the host sends is no part of the invariant. -/
theorem withHost (h : HostPort) : Inv { s with host := h } := { hinv with }

/-- A fault leaves UPC standing, so it keeps the invariant. -/
theorem withFault (code : FaultCode) (opc : Byte) : Inv (faulted s code opc) :=
  { hinv with
    upcStep := by rintro ⟨⟩
    faultUpc := by rintro f ⟨⟩; rfl }

/-- Nothing hangs but a U_XFER (rule R104). -/
theorem not_hung (hu : s.upc ≠ .running .read 3) : s.hung = false :=
  Bool.eq_false_of_not_eq_true fun h => hu (hinv.hungStep h)

/-- Accepting a command the lifecycle admits keeps the invariant, whether its first step follows or its
operand check faults (rules R18, R130 and R131). -/
theorem accepted (hs : AtBoundary s) {c : Command} {f : Option FaultRecord} (hadm : admitted c s.lc = true)
    (hstep : f = none → 0 < c.sequence.length) (hupc : ∀ r, f = some r → r.upc = .running c 0) :
    Inv { s with upc := .running c 0, fault := f } :=
  have hidle {u : Upc} (h : u ≠ .idle) : s.upc ≠ u := fun hu => h (hu.symm.trans hs.2)
  { hinv with
    upcStep := by rintro hf c k ⟨⟩; exact stepAt_isSome (hstep hf)
    upcAdmitted := by rintro c k ⟨⟩; exact hadm
    faultUpc := hupc
    upIff := by
      rw [hinv.upIff]
      simp [hs.2]
    initProgress := by rintro k ⟨⟩; simp
    uninitUntouched := fun hlc _ => hinv.uninitUntouched hlc fun k hk => absurd hk (hidle (by simp))
    csLevel := by
      rw [hinv.csLevel, hs.2]
      cases c <;> rfl
    txnIff := by
      rw [hinv.txnIff, hs.2]
      cases c <;> rfl
    rxFull := by rintro k ⟨⟩; simp
    hungStep := fun h => absurd (hinv.hungStep h) (hidle (by simp))
    fseqOrder := by rintro k ⟨⟩; simp }

/-- A step inside INIT: the clock, the pins and the bus may have changed (rule R120). -/
theorem atInit {j k : Fin 8} (hs : AtStep s .init j) (hk0 : 0 < k.val) (hk : k.val < 6)
    {mclk : Mclk} {up : Bool} {cs : Cs} {drdy : DrdyDir} {wire : List WireEvent}
    (hmclk : mclk.legal) (hrun : mclk.run = true) (hsettled : 2 ≤ k.val → mclk.settled = true)
    (hup : up = true ↔ k = 5) (hdir : 3 ≤ k.val → cs.dir = .out) (hdrdy : 4 ≤ k.val → drdy = .input)
    (hlvl : cs.lvl = if cs.dir = .out then some .high else none) :
    Inv { s with
      mclk := mclk, spi := { s.spi with up := up }, cs := cs, drdy := drdy, wire := wire
      upc := .running .init k } :=
  have hadm : admitted .init s.lc = true := hinv.upcAdmitted _ _ hs.2
  have hlc : s.lc = .uninit := (admitted_init_iff _).mp hadm
  have hhung : s.hung = false := hinv.not_hung (by simp [hs.2])
  { hinv with
    upcStep := by rintro - c j ⟨⟩; exact stepAt_isSome hk
    upcAdmitted := by rintro c j ⟨⟩; exact hadm
    faultUpc := fun f h => by rw [hs.1] at h; cases h
    mclkLegal := hmclk
    spiLegal := hinv.spiLegal
    upIff := by simp [hlc, hup]
    upClock := fun h => ⟨hrun, hsettled (by rw [hup.mp h]; decide)⟩
    initPins := fun h => by rw [hlc] at h; cases h
    initProgress := by rintro j ⟨⟩; exact ⟨fun _ => hrun, hsettled, hdir, hdrdy⟩
    uninitUntouched := fun _ h => by rw [h k rfl] at hk0; cases hk0
    csLevel := hlvl
    txnIff := hinv.txnIff.trans (by rw [hs.2]; rfl)
    claimIff := hinv.claimIff
    rxFull := by rintro j ⟨⟩
    hungStep := fun h => by rw [hhung] at h; cases h
    fseqOrder := by rintro j ⟨⟩ }

/-- A step inside READ: the bracket, chip-select, RX and the draws may have changed (rule R120). -/
theorem atRead (hf : s.fault = none) (hlc : s.lc = .init) {k : Fin 8} (hk : k.val < 7) {spi : Spi}
    {cs : Cs} {rx : Memory} {hung : Bool} {env : Env} {wire : List WireEvent}
    (hspi : spi.legal) (hup : spi.up = true) (htxn : spi.txn = inTransaction (.running .read k))
    (hclaim : spi.claim = spi.txn)
    (hcs : cs = { dir := .out, lvl := some (if inCriticalSection (.running .read k) then .low else .high) })
    (hrx : rx.wf = true)
    (hfull : 4 ≤ k.val → ∀ i < frameLen, (rx.read i).isSome = true) (hhung : hung = true → k = 3)
    (hfseq : 4 ≤ k.val → env.fseqRead ≤ env.fseqXfer) :
    Inv { s with
      spi := spi, cs := cs, rx := rx, hung := hung, env := env, wire := wire
      upc := .running .read k } :=
  { hinv with
    rxWf := hrx
    upcStep := by rintro - c j ⟨⟩; exact stepAt_isSome hk
    upcAdmitted := by rintro c j ⟨⟩; exact (admitted_read_iff _).mpr hlc
    faultUpc := fun f h => by rw [hf] at h; cases h
    spiLegal := hspi
    upIff := by simp [hlc, hup]
    upClock := fun _ => hinv.upClock (hinv.upIff.mpr (.inl hlc))
    initPins := fun h => ⟨by rw [hcs], (hinv.initPins h).2⟩
    initProgress := by rintro j ⟨⟩
    uninitUntouched := fun h => by rw [hlc] at h; cases h
    csLevel := by rw [hcs]; rfl
    txnIff := htxn
    claimIff := hclaim
    rxFull := by rintro j ⟨⟩; exact hfull
    hungStep := fun h => by rw [hhung h]
    fseqOrder := by rintro j ⟨⟩; exact hfseq }

/-- The end of a command outside a transaction: RESULT is written and UPC is back at IDLE; INIT, READ and
DESTROY have changed more (rules R18, R122, R124 and R125). -/
theorem atIdle (hf : s.fault = none) (hpos : inTransaction s.upc = false) {lc : Lc} {mclk : Mclk} {up : Bool}
    {frameOut : FrameOut} {tmp : Option Frame} {r : Response} {env : Env}
    (hmclk : mclk.legal) (hup : up = true ↔ lc = .init)
    (hclock : up = true → mclk.run = true ∧ mclk.settled = true)
    (hpins : lc = .init → s.cs.dir = .out ∧ s.drdy = .input)
    (huninit : lc = .uninit → untouched { s with mclk := mclk, spi := { s.spi with up := up } })
    (hframe : frameOut.legal) (hresult : r.legal) (htmp : ∀ f, tmp = some f → channelsInRange f.ch) :
    Inv { s with
      lc := lc, mclk := mclk, spi := { s.spi with up := up }, frameOut := frameOut, tmp := tmp
      result := some r, env := env, upc := .idle } :=
  { hinv with
    upcStep := by rintro - c k ⟨⟩
    upcAdmitted := by rintro c k ⟨⟩
    faultUpc := fun f h => by rw [hf] at h; cases h
    mclkLegal := hmclk
    spiLegal := hinv.spiLegal
    upIff := by simp [hup]
    upClock := hclock
    initPins := hpins
    initProgress := by rintro k ⟨⟩
    uninitUntouched := fun h _ => huninit h
    csLevel := by
      rw [hinv.csLevel, inCriticalSection_of_not_inTransaction hpos]
      rfl
    txnIff := hinv.txnIff.trans hpos
    claimIff := hinv.claimIff
    rxFull := by rintro k ⟨⟩
    hungStep := fun h => by rw [hinv.hungStep h] at hpos; cases hpos
    frameOutLegal := hframe
    resultLegal := by rintro r ⟨⟩; exact hresult
    tmpRange := htmp
    fseqOrder := by rintro k ⟨⟩ }

/-! ### Where a command stands -/

/-- INIT runs in LC UNINIT (rule R131). -/
theorem lc_of_init {k : Fin 8} (hu : s.upc = .running .init k) : s.lc = .uninit :=
  (admitted_init_iff _).mp (hinv.upcAdmitted _ _ hu)

/-- READY runs in LC INIT (rule R131). -/
theorem lc_of_ready {k : Fin 8} (hu : s.upc = .running .ready k) : s.lc = .init :=
  (admitted_ready_iff _).mp (hinv.upcAdmitted _ _ hu)

/-- READ runs in LC INIT (rule R131). -/
theorem lc_of_read {k : Fin 8} (hu : s.upc = .running .read k) : s.lc = .init :=
  (admitted_read_iff _).mp (hinv.upcAdmitted _ _ hu)

/-- The bus is down until the last step of an INIT (rule R34). -/
theorem up_of_init {k : Fin 8} (hu : s.upc = .running .init k) : s.spi.up = true ↔ k = 5 := by
  rw [hinv.upIff, hinv.lc_of_init hu, hu]
  simp

/-- In LC INIT the bus is up (rule R34). -/
theorem up_of_lc_init (hlc : s.lc = .init) : s.spi.up = true := hinv.upIff.mpr (.inl hlc)

/-- During an INIT chip-select is HIGH once it is an output (rule R24). -/
theorem csLvl_of_init {k : Fin 8} (hu : s.upc = .running .init k) :
    s.cs.lvl = if s.cs.dir = .out then some .high else none := by
  rw [hinv.csLevel, hu]
  rfl

/-- During a READ chip-select is LOW in the critical section and HIGH elsewhere (rule R36). -/
theorem cs_of_read {k : Fin 8} (hu : s.upc = .running .read k) : s.cs =
    { dir := .out, lvl := some (if inCriticalSection (.running .read k) then .low else .high) } := by
  have hdir := (hinv.initPins (hinv.lc_of_read hu)).1
  have hlvl := hinv.csLevel
  rw [if_pos hdir, hu] at hlvl
  rw [← hdir, ← hlvl]

/-- During a READ TXN follows the step (rule R23). -/
theorem txn_of_read {k : Fin 8} (hu : s.upc = .running .read k) :
    s.spi.txn = inTransaction (.running .read k) := hu ▸ hinv.txnIff

/-- In a state of a run no precondition of a micro-operation fails at its step (rule R121). -/
theorem enabled {c : Command} {k : Fin 8} {i : Instr} (hu : s.upc = .running c k)
    (hi : stepAt c k = some i) : Enabled s i := by
  cases c with
  | init => fin_cases k <;> cases hi <;> trivial
  | ready =>
    fin_cases k <;> cases hi
    exact (hinv.initPins (hinv.lc_of_ready hu)).2
  | read =>
    have hlc := hinv.lc_of_read hu
    have hup := hinv.up_of_lc_init hlc
    have hcs := hinv.cs_of_read hu
    have htxn := hinv.txn_of_read hu
    fin_cases k <;> cases hi
    · exact (hinv.initPins hlc).2
    · exact ⟨hup, (hinv.upClock hup).2, htxn⟩
    · exact ⟨htxn, by rw [hcs], by rw [hcs]; rfl⟩
    · exact ⟨htxn, by rw [hcs]; rfl⟩
    · exact ⟨htxn, by rw [hcs]; rfl⟩
    · exact ⟨htxn, by rw [hcs]; rfl⟩
    · exact hinv.rxFull 6 hu (by decide)
  | destroy =>
    fin_cases k <;> cases hi
    trivial
  | decode => cases hi
  | cvtV => cases hi
  | cvtMv => cases hi

end Inv

/-! ## Every step keeps the invariant -/

/-- CR1 stays legal when the clock runs and SETTLED is written (rule R76). -/
theorem Mclk.legal_settled {m : Mclk} (h : m.legal) (hrun : m.run = true) (b : Bool) :
    ({ m with settled := b } : Mclk).legal := by
  simpa [Mclk.legal, hrun] using h

/-- A response without a payload is legal. -/
theorem Response.legal_none (code : ResultCode) : ({ code := code, payload := .none } : Response).legal :=
  ⟨by rintro f ⟨⟩, fun _ => rfl⟩

/-- An OK response is legal if a frame in it is in range. -/
theorem Response.legal_ok {p : Payload} (h : ∀ f, p = .frame f → channelsInRange f.ch) :
    ({ code := .ok, payload := p } : Response).legal :=
  ⟨h, fun hcode => absurd rfl hcode⟩

/-- Before U_XFER has completed, UPC names no step after it. -/
theorem not_four_le_of_read {s : State} {k j : Fin 8} (hu : s.upc = .running .read k) (hk : k.val < 4)
    (hj : s.upc = .running .read j) : ¬ 4 ≤ j.val := by
  rw [hu] at hj
  cases hj
  omega

namespace Inv
variable {s : State} (hinv : Inv s)
include hinv

/-- A command that ends with RESULT and the draws alone changed, at a boundary or outside a transaction. -/
theorem ended (hf : s.fault = none) (hpos : inTransaction s.upc = false) (hinit : ∀ k, s.upc ≠ .running .init k)
    {r : Response} (hr : r.legal) (e : Env) : Inv { s with result := some r, env := e, upc := .idle } :=
  hinv.atIdle (lc := s.lc) (up := s.spi.up) hf hpos hinv.mclkLegal (by rw [hinv.upIff]; simp [hinit])
    hinv.upClock hinv.initPins (fun h => hinv.uninitUntouched h fun k hk => absurd hk (hinit k))
    hinv.frameOutLegal hr hinv.tmpRange

/-- Every answer at a command boundary keeps the invariant. -/
theorem of_boundaryEffect {t : State} (hs : AtBoundary s) (h : BoundaryEffect s t) : Inv t := by
  cases h with
  | rejects code opc => exact hinv.withFault code opc
  | accepts c hadm hc =>
    exact hinv.accepted hs (f := s.fault) hadm (fun _ => hc) fun r hr => by rw [hs.1] at hr; cases hr
  | operandFails c hadm code opc => exact hinv.accepted hs hadm (by rintro ⟨⟩) (by rintro r ⟨⟩; rfl)
  | answers p hp =>
    exact hinv.ended hs.1 (by rw [hs.2]; rfl) (by simp [hs.2]) (Response.legal_ok hp) s.env

/-- Every step inside a command keeps the invariant. -/
theorem of_stepEffect {t : State} {i : Instr} (hf : s.fault = none) (h : StepEffect s i t) : Inv t := by
  cases h with
  | faults _ _ code opc => exact hinv.withFault code opc
  | initFails _ k hu hk code =>
    have hdown := mt (hinv.up_of_init hu).mp hk
    exact hinv.atIdle (lc := .failed) (up := s.spi.up) hf (by rw [hu]; rfl) hinv.mclkLegal (by simp [hdown])
      hinv.upClock (by rintro ⟨⟩) (by rintro ⟨⟩) hinv.frameOutLegal (Response.legal_none code) hinv.tmpRange
  | clockStarts hu =>
    exact hinv.atInit ⟨hf, hu⟩ (by decide) (by decide) ⟨rfl, rfl, rfl, rfl⟩ rfl (by simp) (up := s.spi.up)
      ((hinv.up_of_init hu).trans (by decide)) (by simp) (by simp) (hinv.csLvl_of_init hu)
  | clockSettles hu =>
    have hrun := (hinv.initProgress 1 hu).1 le_rfl
    exact hinv.atInit ⟨hf, hu⟩ (by decide) (by decide) (Mclk.legal_settled hinv.mclkLegal hrun _) hrun
      (fun _ => by simp [hrun]) (up := s.spi.up) ((hinv.up_of_init hu).trans (by decide)) (by simp) (by simp)
      (hinv.csLvl_of_init hu)
  | csConfigured hu =>
    obtain ⟨hrun, hsettled, -, -⟩ := hinv.initProgress 2 hu
    exact hinv.atInit ⟨hf, hu⟩ (by decide) (by decide) hinv.mclkLegal (hrun (by decide))
      (fun _ => hsettled (by decide)) (up := s.spi.up) ((hinv.up_of_init hu).trans (by decide)) (fun _ => rfl)
      (by simp) rfl
  | drdyConfigured hu =>
    obtain ⟨hrun, hsettled, hdir, -⟩ := hinv.initProgress 3 hu
    exact hinv.atInit ⟨hf, hu⟩ (by decide) (by decide) hinv.mclkLegal (hrun (by decide))
      (fun _ => hsettled (by decide)) (up := s.spi.up) ((hinv.up_of_init hu).trans (by decide))
      (fun _ => hdir (by decide)) (fun _ => rfl) (hinv.csLvl_of_init hu)
  | busUp hu =>
    obtain ⟨hrun, hsettled, hdir, hdrdy⟩ := hinv.initProgress 4 hu
    exact hinv.atInit ⟨hf, hu⟩ (by decide) (by decide) hinv.mclkLegal (hrun (by decide))
      (fun _ => hsettled (by decide)) (by simp) (fun _ => hdir (by decide)) (fun _ => hdrdy (by decide))
      (hinv.csLvl_of_init hu)
  | initEnds hu =>
    obtain ⟨hrun, -, hdir, hdrdy⟩ := hinv.initProgress 5 hu
    have hup := (hinv.up_of_init hu).mpr rfl
    exact hinv.atIdle (lc := .init) (up := s.spi.up) hf (by rw [hu]; rfl)
      (Mclk.legal_settled hinv.mclkLegal (hrun (by decide)) _) (by simp [hup])
      (fun _ => ⟨hrun (by decide), by simp [hrun]⟩) (fun _ => ⟨hdir (by decide), hdrdy (by decide)⟩)
      (by rintro ⟨⟩) hinv.frameOutLegal (Response.legal_none .ok) hinv.tmpRange
  | readyEnds hu b =>
    exact hinv.ended hf (by rw [hu]; rfl) (by simp [hu]) (Response.legal_ok (by rintro f ⟨⟩)) _
  | readNotReady hu => exact hinv.ended hf (by rw [hu]; rfl) (by simp [hu]) (Response.legal_none .notReady) _
  | readReady hu =>
    have hlc := hinv.lc_of_read hu
    exact hinv.atRead hf hlc (by decide) hinv.spiLegal (hinv.up_of_lc_init hlc)
      ((hinv.txn_of_read hu).trans rfl) hinv.claimIff ((hinv.cs_of_read hu).trans rfl) hinv.rxWf (by simp)
      (fun h => absurd (hinv.hungStep h) (by simp [hu])) (by simp)
  | claimHeld hu => exact { hinv with
      fseqOrder := fun j hj h => absurd h (not_four_le_of_read hu (by decide) hj) }
  | txnBegun hu hen e =>
    exact hinv.atRead hf (hinv.lc_of_read hu) (by decide) (.inl ⟨rfl, rfl, rfl, rfl⟩) hen.1 rfl rfl
      ((hinv.cs_of_read hu).trans rfl) hinv.rxWf (by simp) (fun h => absurd (hinv.hungStep h) (by simp [hu]))
      (by simp)
  | csAsserted hu =>
    have hlc := hinv.lc_of_read hu
    exact hinv.atRead hf hlc (by decide) hinv.spiLegal (hinv.up_of_lc_init hlc)
      ((hinv.txn_of_read hu).trans rfl) hinv.claimIff rfl hinv.rxWf (by simp) (fun _ => rfl) (by simp)
  | xferHolds hu => exact hinv
  | xferHangs hu => exact { hinv with
      hungStep := fun _ => hu
      fseqOrder := fun j hj h => absurd h (not_four_le_of_read hu (by decide) hj) }
  | transferred hu hhung m w e hwf hfull _ horder =>
    have hlc := hinv.lc_of_read hu
    exact hinv.atRead hf hlc (by decide) hinv.spiLegal (hinv.up_of_lc_init hlc)
      ((hinv.txn_of_read hu).trans rfl) hinv.claimIff ((hinv.cs_of_read hu).trans rfl) (hwf hinv.rxWf)
      (fun _ => hfull) (fun h => absurd (hhung.symm.trans h) Bool.false_ne_true) (fun _ => horder)
  | csDeasserted hu =>
    have hlc := hinv.lc_of_read hu
    exact hinv.atRead hf hlc (by decide) hinv.spiLegal (hinv.up_of_lc_init hlc)
      ((hinv.txn_of_read hu).trans rfl) hinv.claimIff (by rw [hinv.cs_of_read hu]; rfl) hinv.rxWf
      (fun _ => hinv.rxFull 4 hu (by decide)) (fun h => absurd (hinv.hungStep h) (by simp [hu]))
      (fun _ => hinv.fseqOrder 4 hu (by decide))
  | txnEnded hu =>
    have hlc := hinv.lc_of_read hu
    have hmode : ({ s.spi with txn := false, claim := false } : Spi).legal :=
      hinv.spiLegal.imp_right fun ⟨hrate, hmsb, hcpol, hcpha, _⟩ => ⟨hrate, hmsb, hcpol, hcpha, rfl⟩
    exact hinv.atRead hf hlc (by decide) hmode (hinv.up_of_lc_init hlc) rfl rfl
      ((hinv.cs_of_read hu).trans rfl) hinv.rxWf (fun _ => hinv.rxFull 5 hu (by decide))
      (fun h => absurd (hinv.hungStep h) (by simp [hu])) (fun _ => hinv.fseqOrder 5 hu (by decide))
  | frameRead hu b hlen hcell =>
    have hlc := hinv.lc_of_read hu
    have hrange := channelsInRange_decodeFn b
    exact hinv.atIdle (lc := s.lc) (up := s.spi.up) hf (by rw [hu]; rfl) hinv.mclkLegal
      ⟨fun _ => hlc, hinv.up_of_lc_init⟩ hinv.upClock hinv.initPins (fun h => by rw [hlc] at h; cases h)
      (.inr ⟨rfl, rfl, _, rfl, hrange⟩) (Response.legal_ok (by rintro f ⟨⟩; exact hrange))
      (by rintro f ⟨⟩; exact hrange)
  | busReleased hu =>
    exact hinv.atIdle (lc := .destroyed) (up := false) hf (by rw [hu]; rfl) hinv.mclkLegal (by simp)
      (by rintro ⟨⟩) (by rintro ⟨⟩) (by rintro ⟨⟩) hinv.frameOutLegal (Response.legal_none .ok) hinv.tmpRange

end Inv

/-! ## The step, effect by effect -/

/-- Where a step that answers a next state comes from, without a reset request: an effect at a command boundary, on
the host's bytes that are left, an effect inside a command, or nothing at all. -/
theorem step_effect {s t : State} (hr : s.host.resetReq = false) (h : step s = .next t) :
    s.fault = none ∧
      ((∃ c k i, s.upc = .running c k ∧ stepAt c k = some i ∧ StepEffect s i t) ∨
       (s.upc = .idle ∧ (t = s ∨ ∃ h, BoundaryEffect { s with host := h } t))) := by
  obtain ⟨hreset, -⟩ | ⟨-, hf, ⟨c, k, i, hu, hi, hexec⟩ | ⟨hu, hhost⟩⟩ := step_next h
  · rw [hr] at hreset
    cases hreset
  · obtain ⟨t', hexec', heffect⟩ := exec_at_step ⟨hf, hu⟩ hi
    rw [hexec'] at hexec
    cases hexec
    exact ⟨hf, .inl ⟨c, k, i, hu, hi, heffect⟩⟩
  · refine ⟨hf, .inr ⟨hu, ?_⟩⟩
    obtain ⟨i, rest, -, hexec⟩ | ⟨opc, rest, -, hfault⟩ | ⟨-, rfl⟩ := stepHost_next hhost
    · obtain ⟨t', hexec', heffect⟩ :=
        exec_at_boundary (s := s.setHost { s.host with cmdIn := rest }) ⟨hf, hu⟩ i
      rw [hexec'] at hexec
      cases hexec
      exact .inr ⟨_, heffect⟩
    · cases hfault
      exact .inr ⟨_, .rejects _ _⟩
    · exact .inl rfl

/-- Settles O50: a reset constructs the block anew, and every effect keeps the invariant. -/
theorem stepKeepsInv : Obligations.StepKeepsInv := by
  intro s t hinv h
  cases hr : s.host.resetReq with
  | true =>
    rw [step_reset hr] at h
    cases h
    exact inv_construct s.cfg _ s.env
  | false =>
    obtain ⟨hf, ⟨c, k, i, -, -, heffect⟩ | ⟨hu, rfl | ⟨h, heffect⟩⟩⟩ := step_effect hr h
    · exact hinv.of_stepEffect hf heffect
    · exact hinv
    · exact (hinv.withHost h).of_boundaryEffect ⟨hf, hu⟩ heffect

end Sys2Proof.Machine

namespace Sys2Proof.Machine

/-! ## Progress, and what holds at a boundary (rules R30, R34 to R36 and R121) -/

/-- A micro-operation whose precondition holds takes no fault. -/
theorem StepEffect.fault_eq {s t : State} {i : Instr} (h : StepEffect s i t) (hen : Enabled s i) :
    t.fault = s.fault := by
  cases h with
  | faults _ hdisabled => exact absurd hen hdisabled
  | _ => rfl

/-- Settles O51: the step exists, and the invariant gives the precondition of the current micro-operation. -/
theorem runsNeverGetStuck : Obligations.RunsNeverGetStuck := by
  intro s hinv hf
  cases hr : s.host.resetReq with
  | true => exact ⟨_, step_reset hr, fun _ => rfl⟩
  | false =>
    cases hu : s.upc with
    | idle =>
      rw [step_idle hr hf hu]
      cases hd : decode s.host.cmdIn with
      | instr i rest =>
        obtain ⟨t, hexec, -⟩ := exec_at_boundary (s := s.setHost { s.host with cmdIn := rest }) ⟨hf, hu⟩ i
        exact ⟨t, by simp only [stepHost, hd, hexec], fun h => absurd rfl h⟩
      | illegal opc rest => exact ⟨_, by simp only [stepHost, hd]; rfl, fun h => absurd rfl h⟩
      | incomplete => exact ⟨s, by simp only [stepHost, hd], fun h => absurd rfl h⟩
    | running c k =>
      obtain ⟨i, hi⟩ := Option.isSome_iff_exists.mp (hinv.upcStep hf c k hu)
      obtain ⟨t, hexec, heffect⟩ := exec_at_step ⟨hf, hu⟩ hi
      exact ⟨t, (step_running hr hf hu hi).trans hexec,
        fun _ => (heffect.fault_eq (hinv.enabled hu hi)).trans hf⟩

/-- Settles O52: the fields of the invariant with UPC at IDLE. -/
theorem boundaryInvariants : Obligations.BoundaryInvariants := by
  intro s hinv ⟨_, hu⟩
  have htxn : s.spi.txn = false := by rw [hinv.txnIff, hu]; rfl
  refine ⟨by simp [hinv.upIff, hu], fun hup => (hinv.upClock hup).1, fun hdir => ?_, htxn,
    hinv.claimIff.trans htxn, fun hrun => by simp [pinView, hrun]⟩
  have hlvl : s.cs.lvl = some .high := by
    rw [hinv.csLevel, if_pos hdir, hu]
    rfl
  exact ⟨hlvl, by simp [pinView, hdir, hlvl]⟩

/-! ## What a step changes -/

/-- Settles O53: of the effects that write LC, two belong to INIT and one to DESTROY. -/
theorem lifecycleTransitions : Obligations.LifecycleTransitions := by
  intro s t hinv hr h hne
  obtain ⟨-, ⟨c, k, i, hu, -, heffect⟩ | ⟨-, rfl | ⟨host, heffect⟩⟩⟩ := step_effect hr h
  · cases heffect with
    | initFails _ k hu => exact .inl ⟨hinv.lc_of_init hu, .inr rfl, k, hu⟩
    | initEnds hu => exact .inl ⟨hinv.lc_of_init hu, .inl rfl, 5, hu⟩
    | busReleased hu => exact .inr ⟨fun hlc => hne hlc.symm, rfl, hu⟩
    | _ => exact absurd rfl hne
  · exact absurd rfl hne
  · cases heffect <;> exact absurd rfl hne

/-- Settles O54: a start writes the legal values the fields hold, and a wait keeps them. -/
theorem clockNeverStops : Obligations.ClockNeverStops := by
  intro s t hlegal hrun hr h
  have hsame (hmclk : t.mclk = s.mclk) :
      t.mclk.run = true ∧ t.mclk.freqHz = s.mclk.freqHz ∧ t.mclk.resBits = s.mclk.resBits ∧
        t.mclk.duty = s.mclk.duty ∧ t.mclk.intrEn = s.mclk.intrEn ∧
        (s.mclk.settled = true → t.mclk.settled = true) := by
    rw [hmclk]
    exact ⟨hrun, rfl, rfl, rfl, rfl, id⟩
  obtain ⟨-, ⟨c, k, i, -, -, heffect⟩ | ⟨-, rfl | ⟨host, heffect⟩⟩⟩ := step_effect hr h
  · cases heffect with
    | clockStarts =>
      rw [Mclk.legal, if_pos hrun] at hlegal
      obtain ⟨hfreq, hres, hduty, hintr⟩ := hlegal
      exact ⟨rfl, hfreq.symm, hres.symm, hduty.symm, hintr.symm, id⟩
    | clockSettles => exact ⟨hrun, rfl, rfl, rfl, rfl, fun hset => by simp [hset]⟩
    | initEnds => exact ⟨hrun, rfl, rfl, rfl, rfl, fun hset => by simp [hset]⟩
    | _ => exact hsame rfl
  · exact hsame rfl
  · cases heffect <;> exact hsame rfl

/-- Settles O56: no effect writes the configuration, and a reset keeps it. -/
theorem configurationIsFixed : Obligations.ConfigurationIsFixed := by
  intro s t h
  cases hr : s.host.resetReq with
  | true =>
    rw [step_reset hr] at h
    cases h
    rfl
  | false =>
    obtain ⟨-, ⟨c, k, i, -, -, heffect⟩ | ⟨-, rfl | ⟨host, heffect⟩⟩⟩ := step_effect hr h
    · cases heffect <;> rfl
    · rfl
    · cases heffect <;> rfl

/-- Settles O57: the one effect that writes FRAME_OUT is the end of a READ. -/
theorem frameOutWrittenByReadOnly : Obligations.FrameOutWrittenByReadOnly := by
  intro s t hr h hne
  obtain ⟨-, ⟨c, k, i, -, -, heffect⟩ | ⟨-, rfl | ⟨host, heffect⟩⟩⟩ := step_effect hr h
  · cases heffect with
    | frameRead hu b hlen hcell => exact ⟨hu, b, hlen, hcell, rfl, rfl⟩
    | _ => exact absurd rfl hne
  · exact absurd rfl hne
  · cases heffect <;> exact absurd rfl hne

/-- Settles O60: the one effect that moves the number is the end of a READ, and by then the transferred frame
is not older. -/
theorem frameNumbersDoNotDecrease : Obligations.FrameNumbersDoNotDecrease := by
  intro s t hinv h
  have hsame (hread : t.env.fseqRead = s.env.fseqRead) :
      s.env.fseqRead ≤ t.env.fseqRead ∧ (t.env.fseqRead ≠ s.env.fseqRead →
        s.upc = .running .read 6 ∧ t.upc = .idle ∧ t.env.fseqRead = s.env.fseqXfer ∧
        ∃ f, t.result = some { code := .ok, payload := .frame f }) :=
    ⟨hread.ge, fun hne => absurd hread hne⟩
  cases hr : s.host.resetReq with
  | true =>
    rw [step_reset hr] at h
    cases h
    exact hsame rfl
  | false =>
    obtain ⟨-, ⟨c, k, i, -, -, heffect⟩ | ⟨-, rfl | ⟨host, heffect⟩⟩⟩ := step_effect hr h
    · cases heffect with
      | frameRead hu b => exact ⟨hinv.fseqOrder 6 hu (by decide), fun _ => ⟨hu, rfl, rfl, _, rfl⟩⟩
      | txnBegun hu hen e he => exact hsame (by obtain rfl | rfl := he <;> rfl)
      | transferred hu hhung m w e hwf hfull hread => exact hsame hread
      | _ => exact hsame rfl
    · exact hsame rfl
    · cases heffect <;> exact hsame rfl

/-- What an instruction that answers a next state has done, wherever it is issued. -/
theorem exec_effect {s t : State} {i : Instr} (h : exec i s = .next t) :
    BoundaryEffect s t ∨ StepEffect s i t := by
  cases hf : s.fault with
  | some f =>
    rw [(faultStopsTheBlock s f hf).1 i] at h
    cases h
  | none =>
    cases hu : s.upc with
    | idle =>
      obtain ⟨t', hexec, heffect⟩ := exec_at_boundary ⟨hf, hu⟩ i
      rw [hexec] at h
      cases h
      exact .inl heffect
    | running c k =>
      by_cases hi : stepAt c k = some i
      · obtain ⟨t', hexec, heffect⟩ := exec_at_step ⟨hf, hu⟩ hi
        rw [hexec] at h
        cases h
        exact .inr heffect
      · rw [concurrentCommandsRefused s i c k ⟨hf, hu⟩ hi] at h
        cases h

/-- Settles O58: the effects of the named micro-operations are the only ones that write RX, CS or the pins. -/
theorem whoTouchesBufferAndPins : Obligations.WhoTouchesBufferAndPins := by
  intro s t i h
  obtain heffect | heffect := exec_effect h
  · cases heffect <;> exact ⟨fun _ => rfl, fun _ _ _ => rfl, fun _ _ _ _ => rfl⟩
  · cases heffect with
    | csConfigured => exact ⟨fun _ => rfl, fun hi => absurd rfl hi, fun _ hi => absurd rfl hi⟩
    | csAsserted => exact ⟨fun _ => rfl, fun _ hi => absurd rfl hi, fun _ _ hi => absurd rfl hi⟩
    | csDeasserted => exact ⟨fun _ => rfl, fun _ _ hi => absurd rfl hi, fun _ _ _ hi => absurd rfl hi⟩
    | transferred => exact ⟨fun hi => absurd rfl hi, fun _ _ _ => rfl, fun hi => absurd rfl hi⟩
    | _ => exact ⟨fun _ => rfl, fun _ _ _ => rfl, fun _ _ _ _ => rfl⟩

end Sys2Proof.Machine

namespace Sys2Proof.Machine

/-! ## Noninterference of DRDY (rule R92): the levels it will have commute with every meaning but the sample's -/

/-- Other levels of DRDY at the next samples. -/
def Env.withDrdy (d : List Level) (e : Env) : Env := { e with drdyIn := d }

/-- The same block, with other levels of DRDY to come. -/
def State.withDrdy (d : List Level) (s : State) : State := s.setEnv (s.env.withDrdy d)

/-- The same outcome, with other levels of DRDY to come. -/
def outWithDrdy (d : List Level) (o : Out) : Out :=
  match o with
  | .next t => .next (t.withDrdy d)
  | .fault f => .fault f
  | .refused r => .refused r

section
variable (d : List Level)

/-- No draw but the sample's depends on the levels of DRDY: the bits of an exchange. -/
theorem exchangeBits_withDrdy (b : Byte) (n : Nat) (e : Env) :
    exchangeBits b n (e.withDrdy d) = ((exchangeBits b n e).1, (exchangeBits b n e).2.withDrdy d) := by
  induction n generalizing e with
  | zero => rfl
  | succ n ih =>
    have hdraw : (e.withDrdy d).drawMiso = (e.drawMiso.1, e.drawMiso.2.withDrdy d) := rfl
    simp only [exchangeBits, hdraw, ih]

/-- The bytes of an exchange do not depend on the levels of DRDY. -/
theorem xbytes_withDrdy (n : Nat) (e : Env) :
    xbytes n (e.withDrdy d) = ((xbytes n e).1, (xbytes n e).2.1, (xbytes n e).2.2.withDrdy d) := by
  induction n generalizing e with
  | zero => rfl
  | succ n ih => simp only [xbytes, xbyte, exchangeBits_withDrdy, ih]

variable {s : State} {c : Command} {k : Fin 8}

theorem hostCommand_withDrdy {body body' : State → Out}
    (hbody : body' ({ s with upc := .running c 0 }.withDrdy d) =
      outWithDrdy d (body { s with upc := .running c 0 })) :
    hostCommand c (s.withDrdy d) body' = outWithDrdy d (hostCommand c s body) := by
  cases hf : s.fault with
  | some f => rw [hostCommand_faulted hf, hostCommand_faulted (s := s.withDrdy d) hf]; rfl
  | none =>
    cases hu : s.upc with
    | running c' k => rw [hostCommand_running hf hu, hostCommand_running (s := s.withDrdy d) hf hu]; rfl
    | idle =>
      cases hadm : admitted c s.lc with
      | false =>
        rw [hostCommand_wrongState ⟨hf, hu⟩ hadm, hostCommand_wrongState (s := s.withDrdy d) ⟨hf, hu⟩ hadm]
        rfl
      | true =>
        rw [hostCommand_accepted ⟨hf, hu⟩ hadm, hostCommand_accepted (s := s.withDrdy d) ⟨hf, hu⟩ hadm]
        exact hbody

theorem microOp_withDrdy {i : Instr} {body body' : Command → Fin 8 → Out}
    (hbody : ∀ c k, body' c k = outWithDrdy d (body c k)) :
    microOp i (s.withDrdy d) body' = outWithDrdy d (microOp i s body) := by
  cases hf : s.fault with
  | some f => rw [microOp_faulted hf, microOp_faulted (s := s.withDrdy d) hf]; rfl
  | none =>
    cases hu : s.upc with
    | idle => rw [microOp_idle ⟨hf, hu⟩, microOp_idle (s := s.withDrdy d) ⟨hf, hu⟩]; rfl
    | running c k =>
      by_cases hi : stepAt c k = some i
      · rw [microOp_at hf hu hi, microOp_at (s := s.withDrdy d) hf hu hi]
        exact hbody c k
      · rw [microOp_elsewhere hf hu hi, microOp_elsewhere (s := s.withDrdy d) hf hu hi]
        rfl

theorem require_withDrdy {p : Bool} {body body' : Out} (hbody : body' = outWithDrdy d body) :
    require p c (s.withDrdy d) body' = outWithDrdy d (require p c s body) := by
  cases p with
  | false => rfl
  | true => exact hbody

theorem complete_withDrdy : complete c (s.withDrdy d) = outWithDrdy d (complete c s) := by
  cases c with
  | read =>
    have htmp : (s.withDrdy d).tmp = s.tmp := rfl
    simp only [complete, htmp]
    cases s.tmp <;> rfl
  | _ => rfl

theorem ite_withDrdy {p : Prop} [Decidable p] {o o' u u' : Out} (ho : o' = outWithDrdy d o)
    (hu : u' = outWithDrdy d u) : (if p then o' else u') = outWithDrdy d (if p then o else u) := by
  split_ifs
  · exact ho
  · exact hu

theorem moveOn_withDrdy {s' : State} (hs' : s' = s.withDrdy d) :
    moveOn c k s' = outWithDrdy d (moveOn c k s) := by
  subst hs'
  unfold moveOn
  split_ifs
  · rfl
  · exact complete_withDrdy d

theorem returnError_withDrdy {code : ResultCode} :
    returnError c code (s.withDrdy d) = outWithDrdy d (returnError c code s) := by
  simp only [returnError]
  split_ifs <;> rfl

theorem transferOn_withDrdy {s' : State} (hs' : s' = s.withDrdy d) :
    transferOn c k s' = outWithDrdy d (transferOn c k s) := by
  subst hs'
  obtain ⟨m, hm, h⟩ := transferOn_eq c k s
  obtain ⟨m', hm', h'⟩ := transferOn_eq c k (s.withDrdy d)
  have hx : xbytes frameLen (s.withDrdy d).env.drawFseq =
      ((xbytes frameLen s.env.drawFseq).1, (xbytes frameLen s.env.drawFseq).2.1,
        (xbytes frameLen s.env.drawFseq).2.2.withDrdy d) := xbytes_withDrdy d frameLen s.env.drawFseq
  rw [hx] at hm' h'
  generalize xbytes frameLen s.env.drawFseq = x at hm h hm' h'
  obtain rfl : m = m' := Option.some.inj (hm.symm.trans hm')
  rw [h, h']
  exact moveOn_withDrdy d rfl

/-- Every meaning but that of U_SAMPLE_DRDY. -/
theorem exec_withDrdy {i : Instr} (hi : i ≠ .uSampleDrdy) :
    exec i (s.withDrdy d) = outWithDrdy d (exec i s) := by
  cases i with
  | init =>
    rw [exec, exec, execInit, execInit]
    exact hostCommand_withDrdy d (ite_withDrdy d rfl rfl)
  | ready => exact hostCommand_withDrdy d rfl
  | read => exact hostCommand_withDrdy d rfl
  | decode buf =>
    rw [exec, exec, execDecode, execDecode]
    exact hostCommand_withDrdy d (ite_withDrdy d rfl rfl)
  | cvtV code => exact hostCommand_withDrdy d rfl
  | cvtMv code => exact hostCommand_withDrdy d rfl
  | destroy => exact hostCommand_withDrdy d rfl
  | uMclkStart =>
    exact microOp_withDrdy d fun c k => ite_withDrdy d (returnError_withDrdy d) <|
      ite_withDrdy d (returnError_withDrdy d) <| ite_withDrdy d (returnError_withDrdy d) (moveOn_withDrdy d rfl)
  | uWaitStab =>
    refine microOp_withDrdy d fun c k => moveOn_withDrdy d ?_
    have hmclk : (s.withDrdy d).mclk = s.mclk := rfl
    rw [hmclk]
    split_ifs <;> rfl
  | uCsInit =>
    exact microOp_withDrdy d fun c k => ite_withDrdy d (returnError_withDrdy d) (moveOn_withDrdy d rfl)
  | uDrdyInit =>
    exact microOp_withDrdy d fun c k => ite_withDrdy d (returnError_withDrdy d) (moveOn_withDrdy d rfl)
  | uBusUp =>
    exact microOp_withDrdy d fun c k => ite_withDrdy d (returnError_withDrdy d) <|
      ite_withDrdy d (returnError_withDrdy d) (moveOn_withDrdy d rfl)
  | uSampleDrdy => exact absurd rfl hi
  | uTxnBegin =>
    exact microOp_withDrdy d fun c k => require_withDrdy d <|
      ite_withDrdy d (ite_withDrdy d rfl (moveOn_withDrdy d rfl)) (moveOn_withDrdy d rfl)
  | uCsAssert => exact microOp_withDrdy d fun c k => require_withDrdy d (moveOn_withDrdy d rfl)
  | uXfer =>
    exact microOp_withDrdy d fun c k => require_withDrdy d <| ite_withDrdy d rfl <|
      ite_withDrdy d (ite_withDrdy d rfl (transferOn_withDrdy d rfl)) (transferOn_withDrdy d rfl)
  | uCsDeassert => exact microOp_withDrdy d fun c k => require_withDrdy d (moveOn_withDrdy d rfl)
  | uTxnEnd => exact microOp_withDrdy d fun c k => require_withDrdy d (moveOn_withDrdy d rfl)
  | uDecode =>
    refine microOp_withDrdy d fun c k => ?_
    have hrx : (s.withDrdy d).rx = s.rx := rfl
    rw [hrx]
    cases memReadAll s.rx 0 frameLen with
    | none => rfl
    | some b => exact moveOn_withDrdy d rfl
  | uBusRelease =>
    refine microOp_withDrdy d fun c k => moveOn_withDrdy d ?_
    have hspi : (s.withDrdy d).spi = s.spi := rfl
    rw [hspi]
    split_ifs <;> rfl

end

/-- Settles O59: `exec_withDrdy`, and with the levels the block has anyway it says that they are kept. -/
theorem onlySampleReadsDrdy : Obligations.OnlySampleReadsDrdy := by
  intro s t i hi h
  have hcomm (d : List Level) : exec i (s.withDrdy d) = .next (t.withDrdy d) := by
    rw [exec_withDrdy d hi, h]
    rfl
  refine ⟨?_, hcomm⟩
  have hsame : (.next t : Out) = .next (t.withDrdy s.env.drdyIn) := h.symm.trans (hcomm s.env.drdyIn)
  exact congrArg (fun u => u.env.drdyIn) (Host.Outcome.next.inj hsame)

end Sys2Proof.Machine

namespace Sys2Proof.Machine

/-! ## The exchange of bits (rules R63, R65 and R97) -/

/-- Bit `p` of a byte is the bit that arrived `p` places before the last. -/
theorem byteOfBits_getLsbD (bits : List Bool) {p : Nat} (hp : p < 8) :
    (byteOfBits bits).getLsbD p = bits.reverse.getD p false := by
  induction bits using List.reverseRecOn generalizing p with
  | nil => simp [byteOfBits]
  | append_singleton bits b ih =>
    have hbit : (if b then 1#8 else 0#8 : Byte).getLsbD p = (decide (p = 0) && b) := by
      cases b <;> simp [BitVec.getLsbD_one]
    rw [byteOfBits, List.foldl_append, List.foldl_cons, List.foldl_nil, BitVec.getLsbD_or, hbit,
      List.reverse_append]
    change ((byteOfBits bits <<< 1).getLsbD p || _) = _
    cases p with
    | zero => simp
    | succ p =>
      rw [List.reverse_singleton, List.singleton_append, List.getD_cons_succ, ← ih (by omega)]
      simp [hp, BitVec.getLsbD_eq_getElem (by omega : p < 8)]

/-- Of eight bits, the first is bit 7. -/
theorem byteOfBits_getLsbD_of_length {bits : List Bool} (hlen : bits.length = 8) {p : Nat} (hp : p < 8) :
    (byteOfBits bits).getLsbD p = bits[7 - p]! := by
  rw [byteOfBits_getLsbD bits hp, List.getD_eq_getElem?_getD, List.getElem?_reverse (by omega), hlen,
    List.getElem!_eq_getElem?_getD]
  rfl

/-- The bits an exchange samples, in order of arrival. -/
def sampledBits (t : Byte) (n : Nat) (e : Env) : List Bool :=
  (exchangeBits t n e).1.filterMap WireEvent.sampled

/-- The byte XBYTE returns is made of the sampled bits. -/
theorem xbyte_fst (t : Byte) (e : Env) : (xbyte t e).1 = byteOfBits (sampledBits t 8 e) := rfl

theorem sampledBits_succ (t : Byte) (n : Nat) (e : Env) :
    sampledBits t (n + 1) e = e.drawMiso.1 :: sampledBits t n e.drawMiso.2 := rfl

theorem sampledBits_length (t : Byte) (n : Nat) (e : Env) : (sampledBits t n e).length = n := by
  induction n generalizing e with
  | zero => rfl
  | succ n ih => rw [sampledBits_succ, List.length_cons, ih]

/-- The bits an exchange samples are the next ones the environment has fixed. -/
theorem sampledBits_eq_take (t : Byte) {n : Nat} {e : Env} (h : n ≤ e.misoIn.length) :
    sampledBits t n e = e.misoIn.take n := by
  induction n generalizing e with
  | zero => rfl
  | succ n ih =>
    cases hbits : e.misoIn with
    | nil => simp [hbits] at h
    | cons b bits =>
      have htail : e.drawMiso.2.misoIn = bits := by simp [hbits]
      simp only [hbits, List.length_cons, Nat.add_le_add_iff_right] at h
      rw [sampledBits_succ, ih (htail ▸ h), htail, e.drawMiso_cons b bits hbits, List.take_succ_cons]

/-- The edges of an exchange, bit position by bit position, with the bit sampled there (rule R97). -/
theorem exchangeBits_edges (t : Byte) (n : Nat) (e : Env) :
    (exchangeBits t n e).1 = (List.range n).reverse.flatMap fun p =>
      [.sclkRise (.ofBit (t.getLsbD p)),
       .sclkFall (.ofBit (t.getLsbD p)) ((sampledBits t n e).reverse.getD p false)] := by
  induction n generalizing e with
  | zero => rfl
  | succ n ih =>
    have hlen : (sampledBits t n e.drawMiso.2).reverse.length = n := by
      rw [List.length_reverse, sampledBits_length]
    have hlast : (sampledBits t (n + 1) e).reverse.getD n false = e.drawMiso.1 := by
      rw [sampledBits_succ, List.reverse_cons, List.getD_append_right _ _ _ _ hlen.le, hlen, Nat.sub_self]
      rfl
    rw [List.range_succ, List.reverse_append, List.reverse_singleton, List.singleton_append, List.flatMap_cons,
      hlast]
    simp only [exchangeBits, List.cons_append, List.nil_append, List.cons.injEq, true_and]
    rw [ih]
    refine List.flatMap_congr fun p hp => ?_
    have hp : p < n := List.mem_range.mp (List.mem_reverse.mp hp)
    rw [sampledBits_succ, List.reverse_cons, List.getD_append _ _ _ _ (hlen.symm ▸ hp)]

/-- Settles O35: the eight pairs of edges, and the bits the environment has fixed. -/
theorem byteExchange : Obligations.ByteExchange := by
  intro t e
  refine ⟨?_, fun bits later hlen hmiso => ⟨?_, fun p hp => ?_⟩⟩
  · refine (exchangeBits_edges t 8 e).trans (List.flatMap_congr fun p hp => ?_)
    rw [xbyte_fst, byteOfBits_getLsbD _ (List.mem_range.mp (List.mem_reverse.mp hp))]
  · have hdrop : (xbyte t e).2.2.misoIn = e.misoIn.drop 8 := by rw [xbyte, exchangeBits_env]
    rw [hdrop, hmiso, ← hlen, List.drop_left]
  · have htake : e.misoIn.take 8 = bits := by rw [hmiso, ← hlen, List.take_left]
    rw [xbyte_fst, sampledBits_eq_take t (by simp [hmiso, hlen]), htake, byteOfBits_getLsbD_of_length hlen hp]

/-- Byte `j` of an exchange is made of its own eight bits. -/
theorem xbytes_getElem? {n j : Nat} {e : Env} (h : 8 * n ≤ e.misoIn.length) (hj : j < n) :
    (xbytes n e).1[j]? = some (byteOfBits ((e.misoIn.drop (8 * j)).take 8)) := by
  induction n generalizing e j with
  | zero => omega
  | succ n ih =>
    cases j with
    | zero =>
      have hbits : sampledBits txFill 8 e = e.misoIn.take 8 := sampledBits_eq_take txFill (by omega)
      rw [xbytes, List.getElem?_cons_zero, xbyte_fst, hbits]
      rfl
    | succ j =>
      have henv : (xbyte txFill e).2.2.misoIn = e.misoIn.drop 8 := by rw [xbyte, exchangeBits_env]
      rw [xbytes, List.getElem?_cons_succ, ih (by rw [henv, List.length_drop]; omega) (by omega), henv,
        List.drop_drop, Nat.mul_succ, Nat.add_comm]

/-- Settles O36: bit `s` is bit `s mod 8` of the bits of byte `s div 8`. -/
theorem streamBitPlaces : Obligations.StreamBitPlaces := by
  intro e bits later hlen hmiso
  refine ⟨xbytes_length 27 e, fun s hs => ?_⟩
  have hlong : 8 * 27 ≤ e.misoIn.length := by simp [hmiso, hlen]
  have hbyte := xbytes_getElem? hlong (by omega : s / 8 < 27)
  have htake : ((e.misoIn.drop (8 * (s / 8))).take 8).length = 8 := by
    rw [List.length_take, List.length_drop]
    omega
  have hplace : 8 * (s / 8) + (7 - (7 - s % 8)) = s := by omega
  rw [List.getElem!_eq_getElem?_getD, hbyte, Option.getD_some,
    byteOfBits_getLsbD_of_length htake (by omega), List.getElem!_eq_getElem?_getD, List.getElem!_eq_getElem?_getD,
    List.getElem?_take_of_lt (by omega), List.getElem?_drop, hplace, hmiso,
    List.getElem?_append_left (hlen.symm ▸ hs)]

/-- Every event of an exchange of TX_FILL is an SCLK edge with MOSI LOW. -/
theorem exchangeBits_txFill (n : Nat) (e : Env) :
    ∀ w ∈ (exchangeBits txFill n e).1, w = .sclkRise .low ∨ ∃ b, w = .sclkFall .low b := by
  induction n generalizing e with
  | zero => simp [exchangeBits]
  | succ n ih => simpa [exchangeBits, txFill, Level.ofBit] using ih _

/-- Settles O37: byte by byte. -/
theorem transmitAllZero : Obligations.TransmitAllZero := by
  intro n
  induction n with
  | zero => simp [xbytes]
  | succ n ih =>
    intro e w hw
    rw [xbytes, List.mem_append] at hw
    exact hw.elim (exchangeBits_txFill 8 e w) (ih _ w)

/-! ## Holds, hangs and polling (rules R72, R94 and R104) -/

/-- Settles O38: by induction on the attempts that find the claim taken. -/
theorem sharedBusHold : Obligations.SharedBusHold := by
  intro s n later hs hr hsh hup hset htxn
  induction n generalizing s with
  | zero =>
    intro (hclaim : s.env.claimIn = false :: later)
    have hfree : s.env.drawClaim = (false, { s.env with claimIn := later, drawn := s.env.drawn + 1 }) := by
      simp [Env.drawClaim, drawFrom, hclaim]
    have htaken := ((txnBeginEffect s hs).2 hup hset htxn).2.2.1 hsh (by rw [hfree])
    rw [hfree] at htaken
    refine ⟨?_, core_run_one_exec hs hr rfl htaken⟩
    rw [← hclaim]
    rfl
  | succ n ih =>
    intro hclaim
    have hheld : s.env.drawClaim =
        (true, { s.env with claimIn := List.replicate n true ++ false :: later, drawn := s.env.drawn + 1 }) := by
      simp [Env.drawClaim, drawFrom, hclaim, List.replicate_succ]
    have hholds := ((txnBeginEffect s hs).2 hup hset htxn).2.1 hsh (by rw [hheld])
    rw [hheld] at hholds
    have hcount : s.env.drawn + 1 + n = s.env.drawn + (n + 1) := by omega
    rw [core_run_exec hr hs rfl hholds, core_run_exec hr hs rfl hholds, ← hcount]
    exact ih _ hs hr hsh hup hset htxn rfl

/-- Settles O39: by induction on the steps, each of which is a U_XFER that holds. -/
theorem hangHoldsForever : Obligations.HangHoldsForever := by
  intro s n hinv hhung hf hr
  have hs : AtStep s .read 3 := ⟨hf, hinv.hungStep hhung⟩
  have hen := hinv.enabled hs.2 (by rfl : stepAt .read 3 = some .uXfer)
  have hstep : step s = .next s :=
    (step_eq_exec hs hr rfl).trans (((xferEffect s hs).2 hen.1 hen.2).1 hhung)
  induction n with
  | zero => rfl
  | succ n ih => rw [core_run_next hstep, ih]

/-- One READY of the polling loop: it is accepted, and the next step answers the sample (rule R123). -/
theorem pollOnce_eq {s : State} (hs : AtBoundary s) (hr : s.host.resetReq = false) (hlc : s.lc = .init)
    (hin : s.drdy = .input) :
    pollOnce s = .next { ended s .ok (.bool (decide (s.env.drawDrdy.1 = .low))) with env := s.env.drawDrdy.2 } := by
  have hpost : AtBoundary (s.setHost { s.host with cmdIn := encode .ready ++ s.host.cmdIn }) := hs
  have hdecode : decode (encode .ready ++ s.host.cmdIn) = .instr .ready s.host.cmdIn :=
    decodeOfEncode .ready s.host.cmdIn rfl
  have hfirst := (stepRunsHostCommand _ hpost hr).1 _ _ hdecode
  have htaken : { s.setHost { s.host with cmdIn := encode .ready ++ s.host.cmdIn } with
      host := { cmdIn := s.host.cmdIn, resetReq := false } } = s := by
    rw [← hr]
    rfl
  obtain ⟨haccept, hsample⟩ := (readyReturnsTheLevel s hs hr).2 hlc hin
  simp only [pollOnce, hfirst, htaken, haccept, hsample]

/-- Settles O40: by induction on the samples that find DRDY HIGH. -/
theorem pollingEndsAtLow : Obligations.PollingEndsAtLow := by
  intro s n later hs hr hlc hin
  induction n generalizing s with
  | zero =>
    intro hlevels
    have hdraw : s.env.drawDrdy = (.low, { s.env with drdyIn := later, drawn := s.env.drawn + 1 }) := by
      simp [Env.drawDrdy, drawFrom, hlevels]
    simp only [waitReady, pollOnce_eq hs hr hlc hin, hdraw]
    rfl
  | succ n ih =>
    intro hlevels
    have hdraw : s.env.drawDrdy = (.high, { s.env with
        drdyIn := List.replicate n .high ++ .low :: later, drawn := s.env.drawn + 1 }) := by
      simp [Env.drawDrdy, drawFrom, hlevels, List.replicate_succ]
    have hcount : s.env.drawn + 1 + n = s.env.drawn + (n + 1) := by omega
    rw [waitReady, pollOnce_eq hs hr hlc hin, hdraw, ← hcount]
    exact ih { ended s .ok (.bool false) with env := _ } ⟨hs.1, rfl⟩ hr hlc hin rfl

/-! ## The clock's waveform (rules R77 and R78) -/

/-- The duty counter counts modulo 4. -/
theorem dutyCountAt_eq (n : Nat) : dutyCountAt n = BitVec.ofNat 2 n := by
  induction n with
  | zero => rfl
  | succ n ih =>
    rw [dutyCountAt, ih, dutyCountNext, BitVec.ofNat_add]
    rfl

/-- Settles O55: DUTY is 2 of the 4 counter values. -/
theorem clockWaveform : Obligations.ClockWaveform := by
  intro s hlegal hrun n
  rw [Mclk.legal, if_pos hrun] at hlegal
  obtain ⟨-, -, hduty, -⟩ := hlegal
  rw [clockLevel, if_pos hrun, hduty, Option.map_some, dutyOutput, dutyCountAt_eq, BitVec.toNat_ofNat]
  rfl

end Sys2Proof.Machine

namespace Sys2Proof.Machine

/-! ## Rounding a quotient (rule R115) -/

/-- A greater dividend has no smaller rounded quotient. -/
theorem roundDiv_mono {a a' : Nat} (b : Nat) (hb : 0 < b) (h : a ≤ a') : roundDiv a b ≤ roundDiv a' b := by
  by_contra hlt
  have hstep : (roundDiv a' b + 1) * b ≤ roundDiv a b * b := Nat.mul_le_mul_right b (by omega)
  have hlow := (roundDiv_near a hb).1
  have hhigh := (roundDiv_near a' hb).2
  rw [Nat.add_mul] at hstep
  have heq : a = a' := by omega
  rw [heq] at hlt
  exact hlt le_rfl

/-- A common factor of dividend and divisor drops out. -/
theorem roundDiv_mul_right (a b : Nat) {c : Nat} (hc : 0 < c) : roundDiv (a * c) (b * c) = roundDiv a b := by
  have hlow : 2 * (a % b * c) < b * c ↔ 2 * (a % b) < b := by
    rw [← Nat.mul_assoc, Nat.mul_lt_mul_right hc]
  have hhigh : b * c < 2 * (a % b * c) ↔ b < 2 * (a % b) := by
    rw [← Nat.mul_assoc, Nat.mul_lt_mul_right hc]
  simp only [roundDiv, Nat.mul_div_mul_right _ _ hc, Nat.mul_mod_mul_right, hlow, hhigh]

/-- Only at a tie is the rounded quotient half a divisor away. -/
theorem roundDiv_even_of_half {a b : Nat} (hb : 0 < b)
    (h : 2 * (roundDiv a b * b) = 2 * a + b ∨ 2 * a = 2 * (roundDiv a b * b) + b) : roundDiv a b % 2 = 0 := by
  by_cases htie : 2 * (a % b) = b
  · exact roundDiv_tie htie
  have hdiv := Nat.div_add_mod' a b
  have hmod := Nat.mod_lt a hb
  rw [roundDiv] at h
  split_ifs at h with hlow hhigh
  · omega
  · rw [Nat.add_mul] at h
    omega
  · omega

/-- The rounded quotient is the nearest one, and where another is as near it is even. -/
theorem roundDiv_nearest (a : Nat) {b : Nat} (hb : 0 < b) (q : Nat) :
    |((roundDiv a b * b : Nat) : Int) - a| ≤ |((q * b : Nat) : Int) - a| ∧
      (|((roundDiv a b * b : Nat) : Int) - a| = |((q * b : Nat) : Int) - a| →
        q = roundDiv a b ∨ roundDiv a b % 2 = 0) := by
  have hnear := roundDiv_near a hb
  have heven := roundDiv_even_of_half (a := a) hb
  obtain hlt | rfl | hgt := Nat.lt_trichotomy q (roundDiv a b)
  · have hgap : (q + 1) * b ≤ roundDiv a b * b := Nat.mul_le_mul_right b hlt
    rw [Nat.add_mul] at hgap
    rw [abs_eq_max_neg, abs_eq_max_neg]
    omega
  · exact ⟨le_rfl, fun _ => .inl rfl⟩
  · have hgap : (roundDiv a b + 1) * b ≤ q * b := Nat.mul_le_mul_right b hgt
    rw [Nat.add_mul] at hgap
    rw [abs_eq_max_neg, abs_eq_max_neg]
    omega

/-! ## The fields of a format in order -/

/-- Every field is a subnormal or has an exponent and a fraction. -/
theorem field_cases (f : Format) (g : Nat) :
    g < 2 ^ (f.prec - 1) ∨ ∃ e, ∃ m < 2 ^ (f.prec - 1), g = (e + 1) * 2 ^ (f.prec - 1) + m := by
  obtain h | h := Nat.lt_or_ge g (2 ^ (f.prec - 1))
  · exact .inl h
  · have hpos : 0 < 2 ^ (f.prec - 1) := Nat.two_pow_pos _
    have hdiv : 1 ≤ g / 2 ^ (f.prec - 1) := (Nat.le_div_iff_mul_le hpos).mpr (by omega)
    refine .inr ⟨g / 2 ^ (f.prec - 1) - 1, g % 2 ^ (f.prec - 1), Nat.mod_lt _ hpos, ?_⟩
    rw [Nat.sub_add_cancel hdiv, Nat.div_add_mod']

/-- The next field is a greater value. -/
theorem fieldUnits_lt_succ (f : Format) (g : Nat) : f.fieldUnits g < f.fieldUnits (g + 1) := by
  obtain h | ⟨e, m, hm, rfl⟩ := field_cases f g
  · rw [fieldUnits_subnormal f h]
    obtain h' | h' := Nat.lt_or_ge (g + 1) (2 ^ (f.prec - 1))
    · rw [fieldUnits_subnormal f h']
      exact Nat.lt_succ_self g
    · have hcarry : g + 1 = (0 + 1) * 2 ^ (f.prec - 1) + 0 := by omega
      rw [hcarry, fieldUnits_normal f 0 (Nat.two_pow_pos _)]
      omega
  · rw [fieldUnits_normal f e hm]
    obtain h' | h' := Nat.lt_or_ge (m + 1) (2 ^ (f.prec - 1))
    · rw [Nat.add_assoc, fieldUnits_normal f e h']
      exact Nat.mul_lt_mul_of_pos_right (by omega) (Nat.two_pow_pos e)
    · have hcarry : (e + 1) * 2 ^ (f.prec - 1) + m + 1 = (e + 1 + 1) * 2 ^ (f.prec - 1) + 0 := by
        rw [Nat.add_mul (e + 1)]
        omega
      rw [hcarry, fieldUnits_normal f (e + 1) (Nat.two_pow_pos _), Nat.pow_succ', ← Nat.mul_assoc]
      exact Nat.mul_lt_mul_of_pos_right (by omega) (Nat.two_pow_pos e)

/-- The fields of a format are in the order of their values. -/
theorem fieldUnits_strictMono (f : Format) : StrictMono f.fieldUnits :=
  strictMono_nat_of_lt_succ (fieldUnits_lt_succ f)

/-- A greater magnitude loses no fewer places. -/
theorem shift_mono (f : Format) {n n' : Nat} (d : Nat) (h : n ≤ n') : f.shift n d ≤ f.shift n' d := by
  have hlog : Nat.log2 (n / d) ≤ Nat.log2 (n' / d) := by
    rw [Nat.log2_eq_log_two, Nat.log2_eq_log_two]
    exact Nat.log_mono_right (Nat.div_le_div_right h)
  rw [Format.shift, Format.shift]
  omega

/-- A greater magnitude has no smaller field. -/
theorem roundUnits_mono (f : Format) (hp : 2 ≤ f.prec) {n n' : Nat} (d : Nat) (hd : 0 < d) (h : n ≤ n') :
    f.roundUnits n d ≤ f.roundUnits n' d := by
  refine min_le_min_right _ ?_
  have hshift := shift_mono f d h
  obtain ⟨hle, -⟩ := significand_bounds f hp n d
  obtain ⟨-, hge⟩ := significand_bounds f hp n' d
  obtain heq | hlt := hshift.eq_or_lt
  · rw [heq]
    exact Nat.add_le_add_left (roundDiv_mono _ (Nat.mul_pos hd (Nat.two_pow_pos _)) h) _
  · have hgap : (f.shift n d + 1) * 2 ^ (f.prec - 1) ≤ f.shift n' d * 2 ^ (f.prec - 1) :=
      Nat.mul_le_mul_right _ hlt
    have hprec : 2 ^ f.prec = 2 * 2 ^ (f.prec - 1) := by
      rw [← Nat.pow_succ']
      congr 1
      omega
    rw [Nat.add_mul] at hgap
    omega

/-- A common factor of numerator and denominator drops out. -/
theorem roundUnits_mul_right (f : Format) (n d : Nat) {c : Nat} (hc : 0 < c) :
    f.roundUnits (n * c) (d * c) = f.roundUnits n d := by
  have hshift : f.shift (n * c) (d * c) = f.shift n d := by
    rw [Format.shift, Format.shift, Nat.mul_div_mul_right _ _ hc]
  rw [Format.roundUnits, Format.roundUnits, hshift, Nat.mul_right_comm, roundDiv_mul_right _ _ hc]

/-! ## Nearest, ties to even (rule R115, log 16) -/

/-- A finite value is a multiple of the ulp `2 ^ e`, or lies below the binade in which that is the ulp. -/
theorem fieldUnits_multiple_or_below (f : Format) (g e : Nat) :
    (∃ q, f.fieldUnits g = q * 2 ^ e) ∨ 0 < e ∧ f.fieldUnits g < 2 ^ (f.prec - 1) * 2 ^ e := by
  by_cases he : e = 0
  · exact .inl ⟨f.fieldUnits g, by rw [he, Nat.pow_zero, Nat.mul_one]⟩
  have hpos := Nat.pos_of_ne_zero he
  obtain h | ⟨e', m, hm, rfl⟩ := field_cases f g
  · rw [fieldUnits_subnormal f h]
    exact .inr ⟨hpos, h.trans_le (Nat.le_mul_of_pos_right _ (Nat.two_pow_pos e))⟩
  · rw [fieldUnits_normal f e' hm]
    obtain hlt | hle := Nat.lt_or_ge e' e
    · refine .inr ⟨hpos, ?_⟩
      calc (2 ^ (f.prec - 1) + m) * 2 ^ e'
        _ < 2 ^ (f.prec - 1) * 2 * 2 ^ e' := Nat.mul_lt_mul_of_pos_right (by omega) (Nat.two_pow_pos e')
        _ = 2 ^ (f.prec - 1) * 2 ^ (e' + 1) := by rw [Nat.mul_assoc, Nat.pow_succ']
        _ ≤ 2 ^ (f.prec - 1) * 2 ^ e := Nat.mul_le_mul_left _ (Nat.pow_le_pow_right (by decide) hlt)
    · refine .inl ⟨(2 ^ (f.prec - 1) + m) * 2 ^ (e' - e), ?_⟩
      rw [Nat.mul_assoc, ← Nat.pow_add, Nat.sub_add_cancel hle]

/-- A magnitude that loses places reaches the binade in which `2 ^ shift` is the ulp. -/
theorem binade_le (f : Format) (hp : 2 ≤ f.prec) (n d : Nat) (h : 0 < f.shift n d) :
    2 ^ (f.prec - 1) * 2 ^ f.shift n d * d ≤ n := by
  have hlog : f.prec - 1 + f.shift n d = Nat.log2 (n / d) := by
    rw [Format.shift] at h ⊢
    omega
  have hne : n / d ≠ 0 := by
    intro hzero
    rw [Format.shift, hzero, Nat.log2_zero] at h
    omega
  rw [← Nat.pow_add, hlog]
  exact (Nat.mul_le_mul_right d (Nat.log2_self_le hne)).trans (Nat.div_mul_le_self n d)

/-- The rounded field is even exactly when its significand is. -/
theorem roundUnits_mod_two (f : Format) (hp : 2 ≤ f.prec) (n d : Nat) (h : f.roundUnits n d < f.infinity) :
    f.roundUnits n d % 2 = roundDiv n (d * 2 ^ f.shift n d) % 2 := by
  obtain ⟨half, hhalf⟩ : 2 ∣ 2 ^ (f.prec - 1) := dvd_pow_self 2 (by omega)
  rw [Format.roundUnits] at h ⊢
  rw [Nat.min_eq_left (by omega), hhalf, Nat.mul_left_comm, Nat.mul_add_mod]

/-- The distance of `q` ulps from a magnitude, as a distance of numerators. -/
theorem ulps_mul_sub (q e d n : Nat) :
    ((q * 2 ^ e : Nat) : Int) * d - n = ((q * (d * 2 ^ e) : Nat) : Int) - n := by
  rw [← Nat.cast_mul, Nat.mul_assoc, Nat.mul_comm (2 ^ e)]

/-- Settles O46: another multiple of the ulp is no nearer than the rounded quotient, and a value below the binade
is farther than the binade's least. -/
theorem roundsToNearestEven : Obligations.RoundsToNearestEven := by
  intro f hf n d hd hfin g _
  have hp : 2 ≤ f.prec := by obtain rfl | rfl := hf <;> decide
  have hulp : 0 < d * 2 ^ f.shift n d := Nat.mul_pos hd (Nat.two_pow_pos _)
  have hunits := roundUnits_units f hp n d hfin
  obtain ⟨q, hq⟩ | ⟨hpos, hbelow⟩ := fieldUnits_multiple_or_below f g (f.shift n d)
  · obtain ⟨hle, htie⟩ := roundDiv_nearest n hulp q
    rw [roundUnits_mod_two f hp n d hfin, hunits, hq, ulps_mul_sub, ulps_mul_sub]
    refine ⟨hle, fun heq => (htie heq).imp_left fun hsame => (fieldUnits_strictMono f).injective ?_⟩
    rw [hq, hunits, hsame]
  · have hleast := binade_le f hp n d hpos
    have hfar : f.fieldUnits g * d < 2 ^ (f.prec - 1) * 2 ^ f.shift n d * d :=
      Nat.mul_lt_mul_of_pos_right hbelow hd
    have hle := (roundDiv_nearest n hulp (2 ^ (f.prec - 1))).1
    rw [← ulps_mul_sub, ← ulps_mul_sub, ← hunits, ← Nat.cast_mul, ← Nat.cast_mul] at hle
    have hlt : |((f.fieldUnits (f.roundUnits n d) * d : Nat) : Int) - n| <
        |((f.fieldUnits g * d : Nat) : Int) - n| := by
      refine hle.trans_lt ?_
      rw [abs_eq_max_neg, abs_eq_max_neg]
      omega
    rw [← Nat.cast_mul, ← Nat.cast_mul]
    exact ⟨hlt.le, fun heq => absurd heq hlt.ne⟩

end Sys2Proof.Machine

namespace Sys2Proof.Machine

/-! ## The conversions over the whole range of codes (rules R115 to R117) -/

section
variable {m m' : Nat} (h : m ≤ m')
include h

theorem roundRat_mono (f : Format) (hp : 2 ≤ f.prec) {d : Nat} (hd : 0 < d) :
    f.roundRat m d ≤ f.roundRat m' d :=
  roundUnits_mono f hp d hd (Nat.mul_le_mul_right _ h)

theorem mul_mono (f : Format) (hp : 2 ≤ f.prec) (b : Nat) : f.mul m b ≤ f.mul m' b :=
  roundUnits_mono f hp _ (Nat.two_pow_pos _) (Nat.mul_le_mul_right _ ((fieldUnits_strictMono f).monotone h))

theorem convert_mono (src dst : Format) (hp : 2 ≤ dst.prec) : src.convert dst m ≤ src.convert dst m' :=
  roundRat_mono ((fieldUnits_strictMono src).monotone h) dst hp (Nat.two_pow_pos _)

/-- A greater code has no fewer volts, under each arithmetic. -/
theorem voltsField_mono (arith : CvtArith) : voltsField arith m ≤ voltsField arith m' := by
  have h32 : binary32.roundRat m 1 ≤ binary32.roundRat m' 1 := roundRat_mono h _ (by decide) (by decide)
  have h64 : binary64.roundRat m 1 ≤ binary64.roundRat m' 1 := roundRat_mono h _ (by decide) (by decide)
  cases arith with
  | binary32 => exact mul_mono h32 _ (by decide) _
  | binary32MvScale => exact mul_mono h32 _ (by decide) _
  | double => exact convert_mono (mul_mono h64 _ (by decide) _) _ _ (by decide)

/-- A greater code has no fewer millivolts, under each arithmetic. -/
theorem millivoltsField_mono (arith : CvtArith) : millivoltsField arith m ≤ millivoltsField arith m' := by
  have h32 : binary32.roundRat m 1 ≤ binary32.roundRat m' 1 := roundRat_mono h _ (by decide) (by decide)
  have h64 : binary64.roundRat m 1 ≤ binary64.roundRat m' 1 := roundRat_mono h _ (by decide) (by decide)
  cases arith with
  | binary32 => exact mul_mono (voltsField_mono h .binary32) _ (by decide) _
  | binary32MvScale => exact mul_mono h32 _ (by decide) _
  | double => exact convert_mono (mul_mono (mul_mono h64 _ (by decide) _) _ (by decide) _) _ _ (by decide)

end

/-- The fields at the ends of the range of magnitudes, 1 and 2^31. -/
theorem fields_at_ends (arith : CvtArith) :
    2 ^ 23 ≤ voltsField arith 1 ∧ voltsField arith (2 ^ 31) < binary32.infinity ∧
      2 ^ 23 ≤ millivoltsField arith 1 ∧ millivoltsField arith (2 ^ 31) < binary32.infinity := by
  cases arith <;> decide +kernel

/-- Code 0 has field 0 (rule R117). -/
theorem fields_at_zero (arith : CvtArith) : voltsField arith 0 = 0 ∧ millivoltsField arith 0 = 0 := by
  cases arith <;> decide +kernel

/-- No conversion of an Int32 overflows. -/
theorem fields_finite (arith : CvtArith) {m : Nat} (h : m ≤ 2 ^ 31) :
    voltsField arith m < binary32.infinity ∧ millivoltsField arith m < binary32.infinity := by
  obtain ⟨-, hvolts, -, hmillivolts⟩ := fields_at_ends arith
  exact ⟨(voltsField_mono h arith).trans_lt hvolts, (millivoltsField_mono h arith).trans_lt hmillivolts⟩

/-- Every magnitude below 2^24 loses no bit that is set. -/
theorem shift_le_of_lt {m : Nat} (h : m < 2 ^ 24) : binary32.shift (m * 2 ^ 149) 1 ≤ 149 := by
  have hlog : Nat.log2 (m * 2 ^ 149 / 1) < 173 := by
    obtain rfl | hpos := Nat.eq_zero_or_pos m
    · decide
    · rw [Nat.div_one, Nat.log2_lt (Nat.mul_pos hpos (Nat.two_pow_pos _)).ne']
      exact (Nat.mul_lt_mul_of_pos_right h (Nat.two_pow_pos _)).trans_eq (Nat.pow_add 2 24 149).symm
  rw [Format.shift, show binary32.prec = 24 from rfl]
  omega

/-- i2f is finite over the magnitudes of an Int32. -/
theorem i2f_finite {m : Nat} (h : m ≤ 2 ^ 31) : binary32.roundRat m 1 < binary32.infinity :=
  (roundRat_mono h binary32 (by decide) (by decide)).trans_lt (by decide +kernel)

/-- i2f is exact up to 2^24 (rule R116). -/
theorem i2f_exact {m : Nat} (h : m ≤ 2 ^ 24) : binary32.fieldUnits (binary32.roundRat m 1) = m * 2 ^ 149 := by
  obtain rfl | hlt := h.eq_or_lt
  · decide +kernel
  · have hfin : binary32.roundUnits (m * 2 ^ 149) 1 < binary32.infinity := i2f_finite (by omega)
    have hsplit : m * 2 ^ 149 = m * 2 ^ (149 - binary32.shift (m * 2 ^ 149) 1) *
        2 ^ binary32.shift (m * 2 ^ 149) 1 := by
      rw [Nat.mul_assoc, ← Nat.pow_add, Nat.sub_add_cancel (shift_le_of_lt hlt)]
    refine (roundUnits_units binary32 (by decide) _ 1 hfin).trans ?_
    generalize binary32.shift (m * 2 ^ 149) 1 = e at hsplit ⊢
    rw [Nat.one_mul, hsplit, roundDiv_exact _ (Nat.two_pow_pos e)]

/-- Settles O48: the conversions are monotone, so the ends of the range bound them. -/
theorem conversionsStayNormal : Obligations.ConversionsStayNormal := by
  refine ⟨fun m => i2f_exact, fun arith m hlo hhi => ?_, fields_at_zero, fun m hlo hhi => ?_⟩
  · obtain ⟨hvolts, -, hmillivolts, -⟩ := fields_at_ends arith
    obtain ⟨hvfin, hmfin⟩ := fields_finite arith hhi
    exact ⟨hvolts.trans (voltsField_mono hlo arith), hvfin,
      hmillivolts.trans (millivoltsField_mono hlo arith), hmfin⟩
  · have hfirst : 0x3419999A ≤ voltsField .binary32 1 := by decide +kernel
    have hlast : voltsField .binary32 (2 ^ 31) ≤ 0x4399999A := by decide +kernel
    exact ⟨hfirst.trans (voltsField_mono hlo _), (voltsField_mono hhi _).trans hlast⟩

/-! ## Signs, constants and half an ulp -/

/-- A binary32 is the sign of its code over a field that leaves the sign bit free (rule R117). -/
theorem packBinary32_toNat (c : Word) {field : Nat} (h : field < 2 ^ 31) :
    (packBinary32 c field).toNat = (if c.toInt < 0 then 2 ^ 31 else 0) + field := by
  rw [packBinary32, BitVec.toNat_ofNat]
  exact Nat.mod_eq_of_lt (by split_ifs <;> omega)

/-- The magnitude of an Int32. -/
theorem codeMagnitude_le (c : Word) : codeMagnitude c ≤ 2 ^ 31 := by
  have hlo := BitVec.le_toInt c
  have hhi := BitVec.toInt_lt (x := c)
  rw [codeMagnitude]
  omega

/-- The fields of an Int32 leave the sign bit free. -/
theorem fields_lt (arith : CvtArith) (c : Word) :
    voltsField arith (codeMagnitude c) < 2 ^ 31 ∧ millivoltsField arith (codeMagnitude c) < 2 ^ 31 := by
  have hinf : binary32.infinity < 2 ^ 31 := by decide
  obtain ⟨hvolts, hmillivolts⟩ := fields_finite arith (codeMagnitude_le c)
  exact ⟨hvolts.trans hinf, hmillivolts.trans hinf⟩

/-- Flipping a bit above a number adds it. -/
theorem xor_two_pow_of_lt {x k : Nat} (h : x < 2 ^ k) : x ^^^ 2 ^ k = 2 ^ k + x := by
  have hor := Nat.two_pow_add_eq_or_of_lt h 1
  rw [Nat.mul_one] at hor
  rw [hor]
  refine Nat.eq_of_testBit_eq fun i => ?_
  rw [Nat.testBit_xor, Nat.testBit_or, Nat.testBit_two_pow]
  by_cases hik : k = i
  · subst hik
    simp [Nat.testBit_lt_two_pow h]
  · simp [hik]

/-- Negating a code flips the sign bit and keeps the field (rule R117). -/
theorem packBinary32_neg {c : Word} (h0 : c ≠ 0#32) (hmin : c ≠ 0x80000000#32) {field : Nat}
    (hfield : field < 2 ^ 31) : packBinary32 (-c) field = packBinary32 c field ^^^ 0x80000000#32 := by
  have hneg : (-c).toInt = -c.toInt := BitVec.toInt_neg_of_ne_intMin hmin
  have hne : c.toInt ≠ 0 := fun h => h0 (BitVec.eq_of_toInt_eq h)
  have hxor := xor_two_pow_of_lt hfield
  refine BitVec.eq_of_toNat_eq ?_
  rw [BitVec.toNat_xor, packBinary32_toNat _ hfield, packBinary32_toNat _ hfield, hneg,
    show (0x80000000#32 : Word).toNat = 2 ^ 31 from rfl]
  obtain hlt | hgt := lt_or_gt_of_ne hne
  · rw [if_neg (by omega), if_pos hlt, ← hxor, Nat.xor_assoc, Nat.xor_self, Nat.xor_zero, Nat.zero_add]
  · rw [if_pos (by omega), if_neg (by omega), Nat.zero_add, hxor]

/-- f32(x * 1000.0) rounds the exact product: 1000.0 has no rounding error, and the scale of the units drops out. -/
theorem mul_thousand32 (a : Nat) : binary32.mul a thousand32 =
    binary32.roundUnits (binary32.fieldUnits a * 1000) 1 := by
  have hthousand : binary32.fieldUnits thousand32 = 1000 * 2 ^ 149 := by decide +kernel
  have hscale := roundUnits_mul_right binary32 (binary32.fieldUnits a * 1000) 1 (Nat.two_pow_pos 149)
  rw [Nat.one_mul, Nat.mul_assoc, ← hthousand] at hscale
  exact hscale

/-- Settles O47: constants and powers of two by evaluation, the half-ulp bounds by `roundUnits_near`. -/
theorem conversionProperties : Obligations.ConversionProperties := by
  have hlsb : lsb32 = 0x3419999A := by decide +kernel
  refine ⟨by decide +kernel, hlsb, by decide +kernel, fun arith c => ?signs, fun m hm => ?i2f, fun m hm => ?volts,
    by decide +kernel, by decide +kernel, fun c h0 hmin => ?negation, by decide +kernel, fun m hm => ?millivolts⟩
  case signs =>
    obtain ⟨hvolts, hmillivolts⟩ := fields_lt arith c
    exact ⟨packBinary32_toNat c hvolts, packBinary32_toNat c hmillivolts⟩
  case i2f =>
    have hnear := roundUnits_near binary32 (by decide) (m * 2 ^ 149) 1 (by decide) (i2f_finite hm)
    simp only [Nat.cast_mul, Nat.cast_pow, Nat.cast_ofNat, Nat.cast_one, mul_one, one_mul] at hnear
    exact hnear
  case volts =>
    have hnear := roundUnits_near binary32 (by decide)
      (binary32.fieldUnits (binary32.roundRat m 1) * binary32.fieldUnits lsb32) (2 ^ 149) (Nat.two_pow_pos _)
      (fields_finite .binary32 hm).1
    simp only [Nat.cast_mul, Nat.cast_pow, Nat.cast_ofNat, hlsb] at hnear
    rw [voltsField, hlsb]
    exact hnear
  case negation =>
    have hneg : codeMagnitude (-c) = codeMagnitude c := by
      rw [codeMagnitude, codeMagnitude, BitVec.toInt_neg_of_ne_intMin hmin, Int.natAbs_neg]
    rw [cvtVolts, cvtVolts, hneg]
    exact packBinary32_neg h0 hmin (fields_lt .binary32 c).1
  case millivolts =>
    have hfin := (fields_finite .binary32 hm).2
    rw [millivoltsField, mul_thousand32] at hfin ⊢
    have hnear := roundUnits_near binary32 (by decide) _ 1 (by decide) hfin
    simp only [Nat.cast_mul, Nat.cast_ofNat, Nat.cast_one, mul_one, one_mul] at hnear
    exact hnear

end Sys2Proof.Machine
